-- ==== Sys2Proof/Word.lean ====
section
/-! DEFINITION. The word widths of the block (00_scope R9, R13; 30_encoding R120). -/

namespace Sys2Proof

/-- One byte of PBUF (20_memory R80). -/
abbrev Byte := BitVec 8

/-- A 16-bit field: the info word, `sequence`, the extension id and length, and WORD, LEN, BASE of a command. -/
abbrev Half := BitVec 16

/-- A 32-bit field, and the width of every register and XDATA read (REG_DW, 00_scope R9). -/
abbrev Word := BitVec 32

/-- A command word (CMD_W = 64, 30_encoding R120). -/
abbrev CommandWord := BitVec 64

end Sys2Proof
end

