-- ==== Sys2Proof/Syntax.lean ====
section
/-! DEFINITION. The eight commands of 30_encoding R121, one constructor per row of spec/opcode_table.json.
A command carries the operands it uses and no others (R122). -/

namespace Sys2Proof

/-- A decoded command. Every operand is an unsigned 16-bit field taken as it is (30_encoding R122). -/
inductive Instr where
  /-- PARSE_HEADER base, len (41_header_parse R185). -/
  | parseHeader (base len : Half)
  /-- PARSE_EXTENSION base, len (42_extension_parse R210). -/
  | parseExtension (base len : Half)
  /-- INFO_VERSION word (40_info_extract R149). -/
  | infoVersion (word : Half)
  /-- INFO_PADDING word (R150). -/
  | infoPadding (word : Half)
  /-- INFO_EXTENSION word (R151). -/
  | infoExtension (word : Half)
  /-- INFO_CSRC_COUNT word (R152). -/
  | infoCsrcCount (word : Half)
  /-- INFO_MARKER word (R153). -/
  | infoMarker (word : Half)
  /-- INFO_PAYLOAD_TYPE word (R154). -/
  | infoPayloadType (word : Half)
  deriving DecidableEq, Repr

end Sys2Proof
end

