-- ==== Sys2Proof/Decode.lean ====
section
/-! DEFINITION. The command word (30_encoding R120 to R126): its fields, the decoder and the encoder. -/

namespace Sys2Proof

/-- OP, bits [2:0] (30_encoding R120). -/
def opField (c : CommandWord) : BitVec 3 := c.extractLsb' 0 3

/-- RSVD, bits [15:3]: ignored by the block (R123). -/
def rsvdField (c : CommandWord) : BitVec 13 := c.extractLsb' 3 13

/-- WORD, bits [31:16]. -/
def wordField (c : CommandWord) : Half := c.extractLsb' 16 16

/-- LEN, bits [47:32]. -/
def lenField (c : CommandWord) : Half := c.extractLsb' 32 16

/-- BASE, bits [63:48]. -/
def baseField (c : CommandWord) : Half := c.extractLsb' 48 16

/-- The operation map of R121 over the fields a command can use. Total: all eight values of OP are defined (R124). -/
def decodeFields (op : BitVec 3) (word len base : Half) : Instr :=
  match op with
  | 0b000#3 => .parseHeader base len
  | 0b001#3 => .parseExtension base len
  | 0b010#3 => .infoVersion word
  | 0b011#3 => .infoPadding word
  | 0b100#3 => .infoExtension word
  | 0b101#3 => .infoCsrcCount word
  | 0b110#3 => .infoMarker word
  | 0b111#3 => .infoPayloadType word

/-- The decoder of a 64-bit command word; it rejects none (R124). -/
def decode (c : CommandWord) : Instr := decodeFields (opField c) (wordField c) (lenField c) (baseField c)

/-- Why bits are no command. A 64-bit word is never rejected (R124). -/
inductive DecodeReject where
  /-- More than 64 bits: a command is exactly one 64-bit word (R125). -/
  | longerThanOneCommandWord
  deriving DecidableEq, Repr

/-- The decoder on any bits: `nbits` bits whose number is `w`, the bits above them 0. -/
def decodeBits (nbits w : Nat) : Except DecodeReject Instr :=
  if nbits ≤ 64 then .ok (decode (BitVec.ofNat 64 (w % 2 ^ nbits))) else .error .longerThanOneCommandWord

/-- What the decoder reads from a table row's bits (bit 0 the least significant bit of the command word). -/
def decodeTableWord (nbits w : Nat) : Option Instr := (decodeBits nbits w).toOption

/-- `c = base<<48 | len<<32 | word<<16 | OP`, with RSVD = 0 (R120, R126). -/
def packCommand (base len word : Half) (op : BitVec 3) : CommandWord :=
  base.setWidth 64 <<< 48 ||| len.setWidth 64 <<< 32 ||| word.setWidth 64 <<< 16 ||| op.setWidth 64

/-- The OP of a command (R121). -/
def Instr.op : Instr → BitVec 3
  | .parseHeader _ _ => 0b000#3
  | .parseExtension _ _ => 0b001#3
  | .infoVersion _ => 0b010#3
  | .infoPadding _ => 0b011#3
  | .infoExtension _ => 0b100#3
  | .infoCsrcCount _ => 0b101#3
  | .infoMarker _ => 0b110#3
  | .infoPayloadType _ => 0b111#3

/-- The assembler (R126): RSVD and every field the command ignores are 0. -/
def encode : Instr → CommandWord
  | .parseHeader base len => packCommand base len 0 0b000#3
  | .parseExtension base len => packCommand base len 0 0b001#3
  | .infoVersion word => packCommand 0 0 word 0b010#3
  | .infoPadding word => packCommand 0 0 word 0b011#3
  | .infoExtension word => packCommand 0 0 word 0b100#3
  | .infoCsrcCount word => packCommand 0 0 word 0b101#3
  | .infoMarker word => packCommand 0 0 word 0b110#3
  | .infoPayloadType word => packCommand 0 0 word 0b111#3

end Sys2Proof
end

