-- ==== Sys2Proof/Machine/Results.lean ====
section
/-! DEFINITION. What a command's completion writes: the outcome code and the result words (10_state R33, R37 to R47).
A result word is an `Option`: `none` is the spec's own state *no value* (00_scope R17), so a word and its validity bit
(10_state R59) are one datum (log 6). -/

namespace Sys2Proof.Machine

/-- The closed error taxonomy of 60_exceptions R230. -/
inductive ParseError where
  /-- Code 2 (R231). -/
  | headerTooSmall
  /-- Code 3 (R232). -/
  | insufficientCsrcData
  /-- Code 4 (R233). -/
  | extensionHeaderMissing
  /-- Code 5 (R234). -/
  | insufficientExtensionData
  deriving DecidableEq, Repr, Inhabited

/-- The values STATUS.CODE takes (10_state R33); 6 and 7 are never produced, so they have no name here. -/
inductive Code where
  /-- 0, NONE: no command has completed since reset, or one is in progress. -/
  | none
  /-- 1, OK. -/
  | ok
  /-- 2 to 5, one of the four errors. -/
  | error (e : ParseError)
  deriving DecidableEq, Repr, Inhabited

/-- The number of CSRC result registers, CSRC_MAX of 00_scope R9. -/
abbrev csrcMax : Nat := 15

/-- The depth of XDATA, XDATA_WORDS of 00_scope R9. -/
abbrev xdataWords : Nat := 16382

/-- The result words: every word of 10_state's inventory that STATUS is not. -/
structure Results where
  /-- RES_INFO (10_state R37). -/
  resInfo : Option Half
  /-- RES_SEQ (R38). -/
  resSeq : Option Half
  /-- RES_TS (R39). -/
  resTs : Option Word
  /-- RES_SSRC (R40). -/
  resSsrc : Option Word
  /-- CSRC[0] to CSRC[14] (R43). -/
  csrc : Vector (Option Word) csrcMax
  /-- RES_EXT_ID (R41). -/
  resExtId : Option Half
  /-- RES_EXT_LEN (R42). -/
  resExtLen : Option Half
  /-- RES_FIELD, 7 bits (R45). -/
  resField : Option (BitVec 7)
  /-- XDATA (R44): entry j is XDATA[j]; XDATA[j] holds no value for j from the list's length on (log 8). -/
  xdata : List Word
  deriving DecidableEq, Repr, Inhabited

/-- Every result word holds no value: after reset, at accept, after an error (R60, R50, R47). -/
def Results.noValue : Results :=
  { resInfo := Option.none, resSeq := Option.none, resTs := Option.none, resSsrc := Option.none,
    csrc := Vector.replicate csrcMax Option.none, resExtId := Option.none, resExtLen := Option.none,
    resField := Option.none, xdata := [] }

/-- All a COMPLETE step writes besides clearing BUSY (10_state R52). -/
structure Completion where
  /-- STATUS.CODE. -/
  code : Code
  /-- STATUS.XP. -/
  xp : Bool
  /-- Every result word. -/
  results : Results
  deriving DecidableEq, Repr, Inhabited

end Sys2Proof.Machine
end

