-- ==== Sys2Proof/Config.lean ====
section
/-! DEFINITION. What an implementation fixes (00_scope R9) and the free values: constants without a body, of which
nothing can be proved. -/

namespace Sys2Proof

/-- The OPEN parameter a model takes as an argument (00_scope R9, U5). State carries it and no step changes it, so a
statement about every state is a statement about every PBUF_BYTES (log 5). LATENCY, the other OPEN parameter, is the
place of the PARSER's turn in the state's `turns` (log 2). -/
structure Config where
  /-- PBUF_BYTES, 1 to 65536. -/
  pbufBytes : Nat
  deriving DecidableEq, Repr

/-- The default of 00_scope R9: PBUF_BYTES = 65536. -/
def Config.standard : Config := { pbufBytes := 65536 }

/-- FREE VALUE: the byte PBUF holds at an address nobody has written (20_memory R84, U7: unconstrained; log 4). -/
opaque Config.powerUpByte : Nat → Byte

/-- FREE VALUE: what the completion of a command whose results are not specified writes (60_exceptions R241, R242:
any code, any register contents; log 3). The argument is the state's `freeCount`. -/
opaque Config.unspecified : Nat → Machine.Completion

end Sys2Proof
end

