-- ==== Sys2Proof/Machine/State.lean ====
section
/-! DEFINITION. The state of the machine, as plain data (10_state section 2), the reasons a step stops, and the state
after reset (10_state R60). -/

namespace Sys2Proof.Machine

/-- PBUF as the bytes written so far: (address, byte), addresses strictly rising. An address that is not listed has
not been written; what it holds is a free value (20_memory R84; log 4). -/
abbrev Memory := List Host.Cell

/-- The command latch (10_state R48). -/
structure Latch where
  /-- CMD_OP. -/
  op : BitVec 3
  /-- CMD_WORD. -/
  word : Half
  /-- CMD_LEN. -/
  len : Half
  /-- CMD_BASE. -/
  base : Half
  deriving DecidableEq, Repr

/-- The set FAULT of 10_state R59, a subset of three names: each flag says that the name is in it. These names are
recorded and the run goes on; they are not `Fault`. -/
structure FaultSet where
  /-- READ_NO_VALUE (60_exceptions R240). -/
  readNoValue : Bool
  /-- HOST_RANGE (R241). -/
  hostRange : Bool
  /-- PBUF_HAZARD (R242). -/
  pbufHazard : Bool
  deriving DecidableEq, Repr

/-- FAULT is empty, the premise of every claim about a run (R243). -/
def FaultSet.empty : FaultSet := { readNoValue := false, hostRange := false, pbufHazard := false }

/-- The next agent to move, and what it does (10_state section 4). The HOST's interactions carry what the HOST sends;
`parser` is the PARSER's turn to take COMPLETE. -/
inductive Turn where
  /-- ISSUE(c) (R50). -/
  | issue (c : CommandWord)
  /-- WRITE_PBUF(a, v) (R51). -/
  | writePbuf (a : Half) (v : Byte)
  /-- READ_REG(n) (R53). -/
  | readReg (n : BitVec 8)
  /-- READ_XDATA(j) (R54). -/
  | readXdata (j : BitVec 14)
  /-- RESET (R55): one clock edge with `rst` = 1 (70 R260). -/
  | reset
  /-- The PARSER moves: COMPLETE if BUSY = 1 (R52), nothing otherwise. -/
  | parser
  deriving DecidableEq, Repr

/-- The state of the machine. -/
structure State where
  /-- The parameters of this machine (00_scope R9). -/
  config : Config
  /-- STATUS.BUSY (10_state R32). -/
  busy : Bool
  /-- STATUS.CODE (R33). -/
  code : Code
  /-- STATUS.OP (R34). -/
  op : BitVec 3
  /-- STATUS.XP (R35). -/
  xp : Bool
  /-- The result words with their validity (R37 to R47). -/
  results : Results
  /-- The command latch (R48). -/
  cmd : Latch
  /-- FAULT (R59). -/
  faults : FaultSet
  /-- PBUF (20_memory R80). -/
  pbuf : Memory
  /-- `reg_rdata` (R49): what the last READ_REG returned, `none` where it returned no value (R53). -/
  regRdata : Option Word
  /-- `xd_rdata` (R49): what the last READ_XDATA returned, `none` where it returned no value (R54). -/
  xdRdata : Option Word
  /-- THE MODEL'S OWN: the steps still to come, first first (log 1). -/
  turns : List Turn
  /-- THE MODEL'S OWN: the running command's buffer was written while BUSY = 1, so its results are not specified
  (60_exceptions R242; log 16). -/
  hazard : Bool
  /-- THE MODEL'S OWN: which free outcome comes next (log 3). -/
  freeCount : Nat
  deriving DecidableEq, Repr

/-- Why the machine stops. -/
inductive Fault where
  /-- Raised by WRITE_PBUF at an address that is not below PBUF_BYTES: no such byte exists and the step is not enabled
  (10_state R51, 20_memory R80; log 10). Safe. -/
  | noSuchPbufAddress (a : Nat)
  deriving DecidableEq, Repr

/-- Why a command has no meaning. -/
inductive Refusal where
  /-- Raised by `exec` for a command that is not modelled; no command is (every arm has its meaning). Safe. -/
  | notModelled (mnemonic : String)
  deriving DecidableEq, Repr

/-- The latch's value after reset: the spec leaves it unspecified and unobservable (10_state R60); zeros are the
model's choice (log 7). -/
def Latch.afterReset : Latch := { op := 0, word := 0, len := 0, base := 0 }

/-- The state after reset at the start of a run (10_state R60, 70 R262): STATUS 0, every result word without a value,
FAULT empty, PBUF with nothing written. -/
def State.reset : State :=
  { config := Config.standard, busy := false, code := .none, op := 0, xp := false, results := Results.noValue,
    cmd := Latch.afterReset, faults := FaultSet.empty, pbuf := [], regRdata := none, xdRdata := none,
    turns := [], hazard := false, freeCount := 0 }

end Sys2Proof.Machine
end

