-- ==== Sys2Proof/Machine/Flags.lean ====
section
/-! DEFINITION. STATUS as a word (10_state R33, R36) and the output pins that follow from it (R32, R49, 70 R260). -/

namespace Sys2Proof.Machine

/-- The code of an error (60_exceptions R230). -/
def ParseError.bits : ParseError → BitVec 3
  | .headerTooSmall => 2
  | .insufficientCsrcData => 3
  | .extensionHeaderMissing => 4
  | .insufficientExtensionData => 5

/-- The 3 bits of STATUS.CODE (10_state R33). -/
def Code.bits : Code → BitVec 3
  | .none => 0
  | .ok => 1
  | .error e => e.bits

/-- STATUS read as 32 bits (R36): [0] BUSY, [3:1] CODE, [6:4] OP, [7] XP, [31:8] 0. -/
def State.statusWord (s : State) : Word :=
  (BitVec.ofBool s.busy).setWidth 32 ||| s.code.bits.setWidth 32 <<< 1 ||| s.op.setWidth 32 <<< 4 |||
    (BitVec.ofBool s.xp).setWidth 32 <<< 7

/-- The pin `cmd_ready`: NOT BUSY (R32), and 0 while `rst` is 1 (70 R260). -/
def State.cmdReady (rst : Bool) (s : State) : Bool := !rst && !s.busy

/-- The pin `busy`: STATUS.BUSY (R32), and 0 while `rst` is 1 (70 R260). -/
def State.busyPin (rst : Bool) (s : State) : Bool := !rst && s.busy

end Sys2Proof.Machine
end

