-- ==== Sys2Proof/Machine/Operands.lean ====
section
/-! DEFINITION. Operands: the fields of an info word (40_info_extract section 1) and the big-endian reads of a packet
buffer (00_scope R13, 20_memory R87). A buffer is read through `rd : Nat → Byte`, the byte at each address; addresses
and lengths are exact naturals (00_scope R15, 20_memory R96). -/

namespace Sys2Proof.Machine

/-- `version(w) = w[15:14]` (R140). -/
def version (w : Half) : BitVec 2 := w.extractLsb' 14 2

/-- `padding(w) = w[13]` (R141). -/
def padding (w : Half) : BitVec 1 := w.extractLsb' 13 1

/-- `extension(w) = w[12]` (R142). -/
def extension (w : Half) : BitVec 1 := w.extractLsb' 12 1

/-- `csrc_count(w) = w[11:8]` (R143). -/
def csrcCount (w : Half) : BitVec 4 := w.extractLsb' 8 4

/-- `marker(w) = w[7]` (R144). -/
def marker (w : Half) : BitVec 1 := w.extractLsb' 7 1

/-- `payload_type(w) = w[6:0]` (R145). -/
def payloadType (w : Half) : BitVec 7 := w.extractLsb' 0 7

/-- `BE16(a)`: the byte at the lowest address is the most significant (00_scope R13). -/
def be16 (rd : Nat → Byte) (a : Nat) : Half := rd a ++ rd (a + 1)

/-- `BE32(a)` (00_scope R13). -/
def be32 (rd : Nat → Byte) (a : Nat) : Word := rd a ++ rd (a + 1) ++ rd (a + 2) ++ rd (a + 3)

/-- `n` 32-bit words from address `a` on, in buffer order (41_header_parse R179, 42_extension_parse R204). -/
def readWords (rd : Nat → Byte) (a n : Nat) : List Word := (List.range n).map fun i => be32 rd (a + 4 * i)

end Sys2Proof.Machine
end

