-- ==== Sys2Proof/Machine/Ops.lean ====
section
/-! DEFINITION. The shared operations over PBUF, the result words and STATUS: the accept of a command (10_state R50),
its completion (R52), the error outcome (R47), the outcome that is not specified (60_exceptions R241, R242), the
register and XDATA reads (R53 to R57) and reset (R60). An error is no trap (60_exceptions R237): nothing is saved and
there is no return (R238), so the error outcome is this block's whole exception entry. -/

namespace Sys2Proof.Machine

/-! ### PBUF -/

/-- The byte written at an address, if one was. -/
def Memory.get? : Memory → Nat → Option Byte
  | [], _ => none
  | (b, v) :: m, a => if a = b then some v else Memory.get? m a

/-- MemWrite(a, 1, v) (10_state R51), keeping the addresses strictly rising. -/
def Memory.set : Memory → Nat → Byte → Memory
  | [], a, v => [(a, v)]
  | (b, w) :: m, a, v =>
    if a < b then (a, v) :: (b, w) :: m
    else if a = b then (a, v) :: m
    else (b, w) :: Memory.set m a v

/-- The canonical form: addresses strictly rising. An unlisted address reads as "not written" in the list, so no entry
can equal what it reads as. -/
abbrev Memory.wf (m : Memory) : Prop := m.Pairwise fun c d => c.1 < d.1

/-- `PBUF[a]` (00_scope R13): the byte last written, or the free value the byte held at power-up (20_memory R84). -/
def State.byteAt (s : State) (a : Nat) : Byte := (Memory.get? s.pbuf a).getD (Config.powerUpByte a)

/-- `PBUF[a] <- v`. -/
def State.setByte (a : Nat) (v : Byte) (s : State) : State := { s with pbuf := Memory.set s.pbuf a v }

/-! ### Accept -/

/-- PARSE_HEADER and PARSE_EXTENSION are the parse ops: the two that name a buffer (20_memory R81). -/
def isParseOp (op : BitVec 3) : Bool := op == 0b000#3 || op == 0b001#3

/-- `a` lies in the buffer `[CMD_BASE, CMD_BASE + CMD_LEN)` (20_memory R81). -/
def Latch.covers (l : Latch) (a : Nat) : Bool := l.base.toNat ≤ a && a < l.base.toNat + l.len.toNat

/-- The fields an accept copies (10_state R50). -/
def Latch.ofWord (c : CommandWord) : Latch :=
  { op := opField c, word := wordField c, len := lenField c, base := baseField c }

/-- The command the latch holds. -/
def Latch.instr (l : Latch) : Instr := decodeFields l.op l.word l.len l.base

/-- HOST_RANGE: the buffer of a parse op runs past PBUF_BYTES (60_exceptions R241). INFO_* commands are not checked. -/
def rangeBroken (cfg : Config) (l : Latch) : Bool :=
  isParseOp l.op && decide (cfg.pbufBytes < l.base.toNat + l.len.toNat)

/-- The accept of a command (10_state R50). -/
def State.accept (c : CommandWord) (s : State) : State :=
  { s with
    cmd := Latch.ofWord c, op := opField c, code := .none, xp := false, busy := true,
    results := Results.noValue, hazard := false,
    faults := { s.faults with hostRange := s.faults.hostRange || rangeBroken s.config (Latch.ofWord c) } }

/-! ### Completion -/

/-- The completion of a command (10_state R52): STATUS and every result word in one step. STATUS.OP keeps the value it
took at accept (R34). -/
def State.complete (c : Completion) (s : State) : State :=
  { s with busy := false, code := c.code, xp := c.xp, results := c.results, hazard := false }

/-- The count of free outcomes used (log 3). -/
def State.withFreeCount (k : Nat) (s : State) : State := { s with freeCount := k }

/-- The outcome of an error: only STATUS is written and every result word holds no value (10_state R47, 60 R237). -/
def Completion.failed (e : ParseError) : Completion := { code := .error e, xp := false, results := Results.noValue }

/-- The outcome of an INFO_* command (40_info_extract section 2): only RES_FIELD holds a value. -/
def Completion.field (f : BitVec 7) : Completion :=
  { code := .ok, xp := false, results := { Results.noValue with resField := some f } }

/-- The parse command names a buffer inside PBUF (20_memory R81) that nobody wrote while it ran (70 R270), so the spec
gives its results. -/
def State.specified (base len : Half) (s : State) : Bool :=
  !s.hazard && decide (base.toNat + len.toNat ≤ s.config.pbufBytes)

/-- The outcome of a command whose results are not specified: any code, any XP, any contents of the result words
(60_exceptions R241, R242), a free value. XDATA has no more than its 16382 words. -/
def Completion.free (n : Nat) : Completion :=
  let c := Config.unspecified n
  { c with results := { c.results with xdata := c.results.xdata.take xdataWords } }

/-- The completion of a parse command: the outcome its rule gives, or a free one where the spec gives none. -/
def State.completeParse (base len : Half) (c : Completion) (s : State) : State :=
  if s.specified base len then s.complete c
  else (s.complete (Completion.free s.freeCount)).withFreeCount (s.freeCount + 1)

/-! ### The HOST's reads -/

/-- The word at a register index (10_state R56): `none` where it holds no value; a reserved index reads 0 (R57). A
narrower field sits in the low bits with zeros above (20_memory R90). -/
def State.regWord (s : State) (n : BitVec 8) : Option Word :=
  if n = 0x00#8 then some s.statusWord
  else if n = 0x01#8 then s.results.resInfo.map (·.setWidth 32)
  else if n = 0x02#8 then s.results.resSeq.map (·.setWidth 32)
  else if n = 0x03#8 then s.results.resTs
  else if n = 0x04#8 then s.results.resSsrc
  else if n = 0x05#8 then s.results.resExtId.map (·.setWidth 32)
  else if n = 0x06#8 then s.results.resExtLen.map (·.setWidth 32)
  else if n = 0x07#8 then s.results.resField.map (·.setWidth 32)
  else if 0x10 ≤ n.toNat then (s.results.csrc[n.toNat - 0x10]?).getD (some 0)
  else some 0

/-- The word at an XDATA index (R54): indices 16382 and 16383 read 0. -/
def State.xdataWord (s : State) (j : BitVec 14) : Option Word :=
  if j.toNat < xdataWords then s.results.xdata[j.toNat]? else some 0

/-- A read of a word that holds no value adds READ_NO_VALUE (60_exceptions R240); any other read adds nothing. -/
def FaultSet.afterRead (f : FaultSet) (r : Option Word) : FaultSet :=
  { f with readNoValue := f.readNoValue || r.isNone }

/-- READ_REG(n) (10_state R53): the value goes out on `reg_rdata`. -/
def State.readReg (n : BitVec 8) (s : State) : State :=
  { s with regRdata := s.regWord n, faults := s.faults.afterRead (s.regWord n) }

/-- READ_XDATA(j) (10_state R54): the value goes out on `xd_rdata`. -/
def State.readXdata (j : BitVec 14) (s : State) : State :=
  { s with xdRdata := s.xdataWord j, faults := s.faults.afterRead (s.xdataWord j) }

/-! ### The HOST's writes and reset -/

/-- A write at `a` is one into the buffer of a running parse command (10_state R51, 70 R270). -/
def State.hazardAt (s : State) (a : Nat) : Bool := s.busy && isParseOp s.cmd.op && s.cmd.covers a

/-- PBUF_HAZARD is recorded, and the running command's results are not specified any more (60_exceptions R242). -/
def State.noteHazard (a : Nat) (s : State) : State :=
  { s with
    hazard := s.hazard || s.hazardAt a,
    faults := { s.faults with pbufHazard := s.faults.pbufHazard || s.hazardAt a } }

/-- WRITE_PBUF(a, v) (10_state R51). It is not enabled at an address no byte of PBUF has (log 10). -/
def State.writePbuf (a : Half) (v : Byte) (s : State) : Host.Outcome State Fault Refusal :=
  if a.toNat < s.config.pbufBytes then .next ((s.noteHazard a.toNat).setByte a.toNat v)
  else .fault (.noSuchPbufAddress a.toNat)

/-- RESET (10_state R55, R60): the block's state takes its reset values and a running command is abandoned (70 R261).
PBUF is not part of the block (20_memory R84) and FAULT is sticky (60_exceptions R243). -/
def State.resetBlock (s : State) : State :=
  { s with
    busy := false, code := .none, op := 0, xp := false, results := Results.noValue,
    cmd := Latch.afterReset, hazard := false }

end Sys2Proof.Machine
end

