-- ==== Sys2Proof/Machine/Info.lean ====
section
/-! DEFINITION. The six INFO_* commands (40_info_extract section 2). None reads PBUF and none can fail (R146). -/

namespace Sys2Proof.Machine

/-- INFO_VERSION (R149). -/
def execInfoVersion (word : Half) (s : State) : Host.Outcome State Fault Refusal :=
  .next (s.complete (Completion.field ((version word).setWidth 7)))

/-- INFO_PADDING (R150). -/
def execInfoPadding (word : Half) (s : State) : Host.Outcome State Fault Refusal :=
  .next (s.complete (Completion.field ((padding word).setWidth 7)))

/-- INFO_EXTENSION (R151). XP stays 0 whatever the bit. -/
def execInfoExtension (word : Half) (s : State) : Host.Outcome State Fault Refusal :=
  .next (s.complete (Completion.field ((extension word).setWidth 7)))

/-- INFO_CSRC_COUNT (R152). -/
def execInfoCsrcCount (word : Half) (s : State) : Host.Outcome State Fault Refusal :=
  .next (s.complete (Completion.field ((csrcCount word).setWidth 7)))

/-- INFO_MARKER (R153). -/
def execInfoMarker (word : Half) (s : State) : Host.Outcome State Fault Refusal :=
  .next (s.complete (Completion.field ((marker word).setWidth 7)))

/-- INFO_PAYLOAD_TYPE (R154). -/
def execInfoPayloadType (word : Half) (s : State) : Host.Outcome State Fault Refusal :=
  .next (s.complete (Completion.field (payloadType word)))

end Sys2Proof.Machine
end

