-- ==== Sys2Proof/Machine/Parse.lean ====
section
/-! DEFINITION. The extension block decoder (42_extension_parse) and the header parse (41_header_parse): the checks in
the source's strict order, the first failing one deciding the outcome (60_exceptions R235). -/

namespace Sys2Proof.Machine

/-- A decoded extension block (42_extension_parse R209). -/
structure ExtBlock where
  /-- `ext_id` (R201). -/
  id : Half
  /-- `ehl` (R202). -/
  ehl : Half
  /-- `[data[0], ..., data[ehl-1]]` (R204). -/
  data : List Word
  deriving DecidableEq, Repr

/-- A decoded header (41_header_parse R185). -/
structure HeaderBlock where
  /-- The info word (R171). -/
  info : Half
  /-- `seq` (R172). -/
  seq : Half
  /-- `ts` (R173). -/
  ts : Word
  /-- `ssrc` (R174). -/
  ssrc : Word
  /-- `[csrc[0], ..., csrc[cc-1]]` (R179). -/
  csrc : List Word
  /-- The extension block, present exactly when X = 1 (R180, R181). -/
  ext : Option ExtBlock
  deriving DecidableEq, Repr

/-- ExtDecode(A, N) (R209). *Remaining* in the data check is the length after the id and length pair (R203,
90_conflicts C2). -/
def extDecode (rd : Nat → Byte) (a n : Nat) : Except ParseError ExtBlock :=
  if n < 4 then .error .extensionHeaderMissing
  else if n - 4 < 4 * (be16 rd (a + 2)).toNat then .error .insufficientExtensionData
  else .ok { id := be16 rd a, ehl := be16 rd (a + 2), data := readWords rd (a + 4) (be16 rd (a + 2)).toNat }

/-- Steps 2 to 5 and 7 of the header parse (R171 to R174, R179), with the extension result of step 8. -/
def headerFields (rd : Nat → Byte) (b : Nat) (ext : Option ExtBlock) : HeaderBlock :=
  { info := be16 rd b, seq := be16 rd (b + 2), ts := be32 rd (b + 4), ssrc := be32 rd (b + 8),
    csrc := readWords rd (b + 12) (csrcCount (be16 rd b)).toNat, ext := ext }

/-- `12 + 4*cc`, the offset of the first byte after the CSRC list (30_encoding R114). -/
def afterCsrc (rd : Nat → Byte) (b : Nat) : Nat := 12 + 4 * (csrcCount (be16 rd b)).toNat

/-- PARSE_HEADER(B, L) up to its commit (41_header_parse R185). -/
def headerDecode (rd : Nat → Byte) (b l : Nat) : Except ParseError HeaderBlock :=
  if l < 12 then .error .headerTooSmall
  else if l - 12 < 4 * (csrcCount (be16 rd b)).toNat then .error .insufficientCsrcData
  else if extension (be16 rd b) = 1#1 then
    match extDecode rd (b + afterCsrc rd b) (l - afterCsrc rd b) with
    | .error e => .error e
    | .ok x => .ok (headerFields rd b (some x))
  else .ok (headerFields rd b none)

/-- The CSRC result file after a success: CSRC[i] for i < cc, no value from there on (10_state R43). -/
def csrcFile (l : List Word) : Vector (Option Word) csrcMax := Vector.ofFn fun i => l[i.val]?

/-- The extension result words (10_state R46). -/
def Results.withExt (r : Results) (x : ExtBlock) : Results :=
  { r with resExtId := some x.id, resExtLen := some x.ehl, xdata := x.data }

/-- The header result words of a packet without an extension block (10_state R46, X = 0). -/
def Results.ofFields (h : HeaderBlock) : Results :=
  { Results.noValue with
    resInfo := some h.info, resSeq := some h.seq, resTs := some h.ts, resSsrc := some h.ssrc,
    csrc := csrcFile h.csrc }

/-- The result words of a header (10_state R46, both rows). -/
def Results.ofHeader (h : HeaderBlock) : Results :=
  match h.ext with
  | none => Results.ofFields h
  | some x => (Results.ofFields h).withExt x

/-- The outcome of PARSE_HEADER (R182, R183). -/
def Completion.ofHeader : Except ParseError HeaderBlock → Completion
  | .error e => Completion.failed e
  | .ok h => { code := .ok, xp := h.ext.isSome, results := Results.ofHeader h }

/-- The outcome of PARSE_EXTENSION (42_extension_parse R210). -/
def Completion.ofExt : Except ParseError ExtBlock → Completion
  | .error e => Completion.failed e
  | .ok x => { code := .ok, xp := true, results := Results.noValue.withExt x }

/-- PARSE_HEADER (41_header_parse R185). -/
def execParseHeader (base len : Half) (s : State) : Host.Outcome State Fault Refusal :=
  .next (s.completeParse base len (Completion.ofHeader (headerDecode s.byteAt base.toNat len.toNat)))

/-- PARSE_EXTENSION (42_extension_parse R210). -/
def execParseExtension (base len : Half) (s : State) : Host.Outcome State Fault Refusal :=
  .next (s.completeParse base len (Completion.ofExt (extDecode s.byteAt base.toNat len.toNat)))

end Sys2Proof.Machine
end

