-- ==== Sys2Proof/Machine/Dispatch.lean ====
section
/-! DEFINITION. One arm per command: its meaning, the COMPLETE step of that command (10_state R52, 30_encoding R121). -/

namespace Sys2Proof.Machine

def exec (i : Instr) (s : State) : Host.Outcome State Fault Refusal :=
  match i with
  | .parseHeader base len => Sys2Proof.Machine.execParseHeader base len s
  | .parseExtension base len => Sys2Proof.Machine.execParseExtension base len s
  | .infoVersion word => Sys2Proof.Machine.execInfoVersion word s
  | .infoPadding word => Sys2Proof.Machine.execInfoPadding word s
  | .infoExtension word => Sys2Proof.Machine.execInfoExtension word s
  | .infoCsrcCount word => Sys2Proof.Machine.execInfoCsrcCount word s
  | .infoMarker word => Sys2Proof.Machine.execInfoMarker word s
  | .infoPayloadType word => Sys2Proof.Machine.execInfoPayloadType word s

end Sys2Proof.Machine
end

