-- ==== Sys2Proof/Machine/Turns.lean ====
section
/-! DEFINITION. Who moves next, and what the HOST's moves do (10_state section 4). -/

namespace Sys2Proof.Machine

/-- What the machine does next. -/
inductive Move where
  /-- The PARSER takes COMPLETE on this state (10_state R52). -/
  | complete (s : State)
  /-- A HOST move, or nothing left to do, with its outcome. -/
  | host (o : Host.Outcome State Fault Refusal)

/-- The state with its first turn taken off. -/
def State.afterTurn (rest : List Turn) (s : State) : State := { s with turns := rest }

/-- The next move. COMPLETE is enabled only while BUSY = 1 (R52), ISSUE only while BUSY = 0 (R50). A command offered
while BUSY = 1 is held by the HOST (70 R272), so its turn stays first and the PARSER moves. With no turn left a busy
PARSER completes (weak fairness, 70 R276) and an idle block keeps all its state (60_exceptions R253). -/
def nextMove (s : State) : Move :=
  match s.turns with
  | [] => if s.busy then .complete s else .host (.next s)
  | .parser :: rest => if s.busy then .complete (s.afterTurn rest) else .host (.next (s.afterTurn rest))
  | .issue c :: rest => if s.busy then .complete s else .host (.next ((s.afterTurn rest).accept c))
  | .writePbuf a v :: rest => .host ((s.afterTurn rest).writePbuf a v)
  | .readReg n :: rest => .host (.next ((s.afterTurn rest).readReg n))
  | .readXdata j :: rest => .host (.next ((s.afterTurn rest).readXdata j))
  | .reset :: rest => .host (.next (s.afterTurn rest).resetBlock)

/-- The state in which the command `c` has just been accepted and the PARSER has the next turn. -/
def State.presented (c : CommandWord) (s : State) : State :=
  { s.accept c with turns := .parser :: s.turns }

end Sys2Proof.Machine
end

