-- ==== Sys2Proof/Machine/Step.lean ====
section
/-! DEFINITION. One step of the machine: the move of the agent whose turn it is (10_state section 4). -/

namespace Sys2Proof.Machine

/-- One step. A COMPLETE runs the command in the latch (10_state R52). -/
def step (s : State) : Host.Outcome State Fault Refusal :=
  match nextMove s with
  | .complete t => exec t.cmd.instr t
  | .host o => o

/-- The block fetches nothing (10_state R31): a command reaches it through `cmd_word` and its accept. This is `s` with
the command of these bits accepted (the bits above `nbits` 0) and the next turn the PARSER's, so that the next step
runs exactly that command and leaves the turns of `s` (log 12). -/
def State.withFetchWord (s : State) (nbits w : Nat) : State := s.presented (BitVec.ofNat 64 (w % 2 ^ nbits))

end Sys2Proof.Machine
end

