-- ==== Sys2Proof/Machine/Observation.lean ====
section
/-! DEFINITION. What the HOST observes of a run that has ended (70 R278): STATUS, and the result words that the table of
10_state R46 names for the outcome STATUS shows. The words are named from what the HOST has read before them: OP and
CODE from STATUS, CC and X from RES_INFO, ehl from RES_EXT_LEN. -/

namespace Sys2Proof.Machine

/-- RES_INFO, RES_SEQ, RES_TS, RES_SSRC and CSRC[i] for i < cc: the first row of R46's table, by index (R56). -/
def headerIndices (cc : Nat) : List (BitVec 8) :=
  [0x01#8, 0x02#8, 0x03#8, 0x04#8] ++ (List.range cc).map fun i => BitVec.ofNat 8 (0x10 + i)

/-- RES_EXT_ID and RES_EXT_LEN. -/
def extIndices : List (BitVec 8) := [0x05#8, 0x06#8]

/-- The info word the HOST reads after a PARSE_HEADER. It is asked only where R46 names RES_INFO. -/
def State.heldInfo (s : State) : Half := s.results.resInfo.getD 0

/-- The command in STATUS decoded an extension block: PARSE_EXTENSION, or PARSE_HEADER with X = 1 (R46). -/
def State.namesExt (s : State) : Bool :=
  s.code == .ok && (s.op == 0b001#3 || (s.op == 0b000#3 && extension s.heldInfo == 1#1))

/-- The result registers R46 names, by index. After an error, and before the first command ends, there is none (R47,
R60). -/
def State.namedRegs (s : State) : List (BitVec 8) :=
  (if s.code = .ok ∧ s.op = 0b000#3 then headerIndices (csrcCount s.heldInfo).toNat else []) ++
  (if s.namesExt then extIndices else []) ++
  (if s.code = .ok ∧ s.op ≠ 0b000#3 ∧ s.op ≠ 0b001#3 then [0x07#8] else [])

/-- How many XDATA words R46 names: ehl, or none without an extension block. -/
def State.namedXdata (s : State) : Nat := if s.namesExt then (s.results.resExtLen.getD 0).toNat else 0

/-- The observation of R278: the HOST's reads, and nothing of time, of words without a value or of PBUF. -/
structure Observation where
  /-- STATUS. -/
  status : Word
  /-- The named result registers, each with its index. -/
  regs : List (BitVec 8 × Option Word)
  /-- The named XDATA words, in order. -/
  xdata : List (Option Word)
  deriving DecidableEq, Repr

/-- What the HOST's reads of STATUS and of the named words return. -/
def State.observation (s : State) : Observation :=
  { status := s.statusWord
    regs := s.namedRegs.map fun n => (n, s.regWord n)
    xdata := (List.range s.namedXdata).map fun j => s.xdataWord (BitVec.ofNat 14 j) }

end Sys2Proof.Machine
end

