-- ==== Sys2Proof/Machine/Wire.lean ====
section
/-! DEFINITION. The RTP header wire format as data (30_encoding R110 to R116), for the round-trip claim
(41_header_parse R187). The block has no serializer (00_scope R5); no step uses this file. -/

namespace Sys2Proof.Machine

/-- The fields of a header. CC and X are not fields of their own: they are the list's length and the block's presence
(30_encoding R113, R114). -/
structure WireHeader where
  version : BitVec 2
  padding : BitVec 1
  marker : BitVec 1
  payloadType : BitVec 7
  seq : Half
  ts : Word
  ssrc : Word
  csrc : List Word
  /-- The extension id and the data words, if X = 1. -/
  ext : Option (Half × List Word)
  deriving DecidableEq, Repr

/-- CC is a 4-bit field and ehl a 16-bit one (30_encoding R112, R115). -/
abbrev WireHeader.WellFormed (h : WireHeader) : Prop :=
  h.csrc.length ≤ 15 ∧ ∀ x ∈ h.ext, x.2.length ≤ 65535

/-- The info word: version(2) | padding(1) | extension(1) | csrc_count(4) | marker(1) | payload_type(7), most
significant first (R112). -/
def WireHeader.info (h : WireHeader) : Half :=
  h.version ++ h.padding ++ BitVec.ofBool h.ext.isSome ++ BitVec.ofNat 4 h.csrc.length ++ h.marker ++ h.payloadType

/-- A 16-bit field on the wire, most significant byte first (20_memory R87). -/
def halfBytes (v : Half) : List Byte := [v.extractLsb' 8 8, v.extractLsb' 0 8]

/-- A 32-bit field on the wire. -/
def wordBytes (v : Word) : List Byte :=
  [v.extractLsb' 24 8, v.extractLsb' 16 8, v.extractLsb' 8 8, v.extractLsb' 0 8]

/-- The extension block: id, length in words, data (R114, R115). -/
def extBytes (id : Half) (data : List Word) : List Byte :=
  halfBytes id ++ halfBytes (BitVec.ofNat 16 data.length) ++ data.flatMap wordBytes

/-- The header's bytes from offset 0 (R110). -/
def WireHeader.bytes (h : WireHeader) : List Byte :=
  halfBytes h.info ++ halfBytes h.seq ++ wordBytes h.ts ++ wordBytes h.ssrc ++ h.csrc.flatMap wordBytes ++
    match h.ext with
    | none => []
    | some x => extBytes x.1 x.2

end Sys2Proof.Machine
end

