-- ==== Sys2Proof/WellFormed.lean ====
section
/-! DEFINITION. The checks: a machine's parameters, and a command word as the assembler writes it.
A command itself needs no check: every value of every operand is legal and every OP is defined (30_encoding R117,
R122, R124), and the operands' widths are their types. -/

namespace Sys2Proof

/-- PBUF_BYTES is from 1 to 65536 (00_scope R9). -/
abbrev Config.WellFormed (c : Config) : Prop := 1 ≤ c.pbufBytes ∧ c.pbufBytes ≤ 65536

/-- The word is one the assembler writes: RSVD and every field its command ignores are 0 (30_encoding R126). A word
that is not is still a command, with those bits ignored (R122, R123). -/
abbrev Canonical (c : CommandWord) : Prop := encode (decode c) = c

end Sys2Proof
end

