-- ==== Sys2Proof/Safety.lean ====
section
/-! DEFINITION. The terms claims use: a run without a recorded fault, what a completion may change, and the invariant
of the machine. -/

namespace Sys2Proof.Machine

/-- FAULT is empty: the premise of every claim about a run (10_state R59, 60_exceptions R243). -/
abbrev State.FaultFree (s : State) : Prop := s.faults = FaultSet.empty

/-- The HOST has no further command to issue: none of the turns to come is an ISSUE (log 1). Reads, writes, RESET and
turns of the PARSER's may be left. -/
abbrev State.NoCommandLeft (s : State) : Prop := ∀ c : CommandWord, .issue c ∉ s.turns

/-- A run has ended: BUSY = 0 and the HOST has no further command to issue (70 R278). -/
abbrev State.RunEnded (s : State) : Prop := s.busy = false ∧ s.NoCommandLeft

/-- A good final state: the run has ended, and FAULT is empty, as the observation of 70 R278 asks (60_exceptions
R243). What is then observed is `State.observation`. -/
abbrev State.GoodEnd (s : State) : Prop := s.RunEnded ∧ s.FaultFree

/-- Every name in `f` is in `g`. -/
abbrev FaultSet.Subset (f g : FaultSet) : Prop :=
  (f.readNoValue = true → g.readNoValue = true) ∧ (f.hostRange = true → g.hostRange = true) ∧
    (f.pbufHazard = true → g.pbufHazard = true)

/-- A completion clears BUSY and may write CODE, XP and the result words; of the spec's state it changes nothing else:
not OP, not the latch, not FAULT, not a byte of PBUF (10_state R47, R52; 20_memory R83). That the ports keep their data
is the model's choice (log 9). -/
structure CompletionFrame (s t : State) : Prop where
  busy : t.busy = false
  op : t.op = s.op
  cmd : t.cmd = s.cmd
  faults : t.faults = s.faults
  pbuf : ∀ a, t.byteAt a = s.byteAt a
  config : t.config = s.config
  regRdata : t.regRdata = s.regRdata
  xdRdata : t.xdRdata = s.xdRdata
  turns : t.turns = s.turns

/-- The command ended in the error `e`: STATUS says so and every other result word holds no value (10_state R47). -/
structure FailedWith (e : ParseError) (s t : State) : Prop where
  code : t.code = .error e
  xp : t.xp = false
  results : t.results = Results.noValue
  frame : CompletionFrame s t

/-- An INFO_* command ended with the field `f` (40_info_extract section 2): CODE is OK, XP is 0, RES_FIELD holds `f`,
reads as `f` with zeros above (10_state R45), and no other word holds a value. -/
structure FieldWritten (f : Nat) (s t : State) : Prop where
  code : t.code = .ok
  xp : t.xp = false
  results : t.results = { Results.noValue with resField := some (BitVec.ofNat 7 f) }
  reads : t.regWord 0x07#8 = some (BitVec.ofNat 32 f)
  frame : CompletionFrame s t

/-- The extension words hold the block at address `a`, whose length field is `ehl` (42_extension_parse R201 to R204). -/
structure HoldsExtAt (a ehl : Nat) (s t : State) : Prop where
  id : t.results.resExtId = some (be16 s.byteAt a)
  len : t.results.resExtLen = some (be16 s.byteAt (a + 2))
  count : t.results.xdata.length = ehl
  data : ∀ j < ehl, t.results.xdata[j]? = some (be32 s.byteAt (a + 4 + 4 * j))

/-- The turn is a write or a read of the HOST's: no ISSUE, no RESET, and not the PARSER's. -/
abbrev Turn.IsAccess : Turn → Prop
  | .writePbuf _ _ | .readReg _ | .readXdata _ => True
  | .issue _ | .reset | .parser => False

/-! ### What the result words look like after a completion (10_state R46, R47) -/

/-- The extension words after a decode: id and length hold a value, and exactly the first ehl words of XDATA. -/
abbrev Results.HasExt (r : Results) : Prop :=
  r.resExtId.isSome ∧ ∃ ehl ∈ r.resExtLen, r.xdata.length = ehl.toNat

/-- No extension word holds a value. -/
abbrev Results.NoExt (r : Results) : Prop := r.resExtId = none ∧ r.resExtLen = none ∧ r.xdata = []

/-- After a successful PARSE_HEADER (R46, 41_header_parse R182): CSRC[i] holds a value exactly for i < CC, and XP and
the extension words are there exactly when X = 1. -/
abbrev Results.HeaderShape (xp : Bool) (r : Results) : Prop :=
  (∃ info ∈ r.resInfo,
    (∀ i : Fin csrcMax, (r.csrc[i.val]).isSome = true ↔ i.val < (csrcCount info).toNat) ∧
    (xp = true ↔ extension info = 1#1)) ∧
  r.resSeq.isSome ∧ r.resTs.isSome ∧ r.resSsrc.isSome ∧ r.resField = none ∧
  (xp = true → r.HasExt) ∧ (xp = false → r.NoExt)

/-- After a successful PARSE_EXTENSION (R46): the extension words and no other. -/
abbrev Results.ExtShape (xp : Bool) (r : Results) : Prop :=
  xp = true ∧ r.HasExt ∧ { r with resExtId := none, resExtLen := none, xdata := [] } = Results.noValue

/-- After an INFO_* command (R46): RES_FIELD and no other word. -/
abbrev Results.FieldShape (xp : Bool) (r : Results) : Prop :=
  xp = false ∧ r.resField.isSome ∧ { r with resField := none } = Results.noValue

/-- The words that hold a value are those STATUS.OP and STATUS.CODE name (R34, R46, R47), and an error is one its
command raises (60_exceptions R230). -/
structure State.OutcomeShape (s : State) : Prop where
  notOk : s.code ≠ .ok → s.xp = false ∧ s.results = Results.noValue
  headerError : s.code = .error .headerTooSmall ∨ s.code = .error .insufficientCsrcData → s.op = 0b000#3
  extError : s.code = .error .extensionHeaderMissing ∨ s.code = .error .insufficientExtensionData →
    s.op = 0b000#3 ∨ s.op = 0b001#3
  header : s.code = .ok → s.op = 0b000#3 → s.results.HeaderShape s.xp
  ext : s.code = .ok → s.op = 0b001#3 → s.results.ExtShape s.xp
  field : s.code = .ok → s.op ≠ 0b000#3 → s.op ≠ 0b001#3 → s.results.FieldShape s.xp

/-- THE INVARIANT of the machine. -/
structure Inv (s : State) : Prop where
  /-- PBUF_BYTES is a legal parameter (00_scope R9). -/
  config : s.config.WellFormed
  /-- PBUF keeps its canonical form and lists only addresses it has (20_memory R80). -/
  pbuf : Memory.wf s.pbuf
  pbufRange : ∀ c ∈ s.pbuf, c.1 < s.config.pbufBytes
  /-- STATUS.OP equals CMD_OP (10_state R48). -/
  opLatch : s.op = s.cmd.op
  /-- XDATA never overflows (10_state R44). -/
  xdata : s.results.xdata.length ≤ xdataWords
  /-- While BUSY = 1, CODE is NONE, XP is 0 and no result word holds a value (10_state R33, R35, R53). -/
  running : s.busy = true → s.code = .none ∧ s.xp = false ∧ s.results = Results.noValue
  /-- A running command whose results are not specified has left its name in FAULT (60_exceptions R241, R242). -/
  hazardNoted : s.hazard = true → s.busy = true ∧ s.faults.pbufHazard = true
  rangeNoted : s.busy = true → rangeBroken s.config s.cmd = true → s.faults.hostRange = true
  /-- With FAULT empty, the words that hold a value are those of 10_state R46 and R47. -/
  shape : s.FaultFree → s.OutcomeShape

end Sys2Proof.Machine
end

