-- ==== Sys2Proof/Certificates/Slice0/Obligations.lean ====
section
/-! DEFINITION. The statements for the provers. Each formalises rules of spec/, named in its docstring.
A statement about `exec` speaks of every state; the rules give the COMPLETE step where it is enabled, BUSY = 1, and that
`exec` answers alike from an idle state is the model's choice (log 13). No run takes it there.
"Specified" operands of a parse command: its buffer lies in PBUF (20_memory R81) and was not written while the command
ran (70 R270); outside them the spec fixes no result and `UnspecifiedParseStillCompletes` says what the model does. -/

open Sys2Proof Sys2Proof.Machine

/-! ### Commands as words -/

/-- Words written out in 95_test_vectors (P1 to P5, I1, I2, H23) decode to the commands written beside them. -/
def Obligations.SampleCommandWordsDecode : Prop :=
  decode 0x0000000C00000000#64 = .parseHeader 0 12 ∧
  decode 0x0101000C00000000#64 = .parseHeader 0x0101 12 ∧
  decode 0x0000000CFFFFFFF8#64 = .parseHeader 0 12 ∧
  decode 0x0014000A00000001#64 = .parseExtension 20 10 ∧
  decode 0xFFFFFFFFC0000002#64 = .infoVersion 0xC000 ∧
  decode 0x00000000C000FFFA#64 = .infoVersion 0xC000 ∧
  decode 0x0000000020000003#64 = .infoPadding 0x2000 ∧
  decode 0x0000000090000004#64 = .infoExtension 0x9000 ∧
  decode 0x0000000092E00005#64 = .infoCsrcCount 0x92E0 ∧
  decode 0x0000000080600006#64 = .infoMarker 0x8060 ∧
  decode 0x0000000080600007#64 = .infoPayloadType 0x8060

/-- 30_encoding R120, R126: every command, with every value of every operand, comes back from its word. -/
def Obligations.DecodeEncodeRoundTrip : Prop :=
  ∀ i : Instr, decode (encode i) = i

/-- 30_encoding R126: the words the assembler writes are exactly those with RSVD and every ignored field 0. -/
def Obligations.AssembledWordsHaveIgnoredFieldsZero : Prop :=
  ∀ c : CommandWord, Canonical c ↔
    rsvdField c = 0 ∧ (isParseOp (opField c) = true → wordField c = 0) ∧
      (isParseOp (opField c) = false → lenField c = 0 ∧ baseField c = 0)

/-- 30_encoding R121, R122, R124: OP selects the command and its operands are the fields of R120, whatever the word. -/
def Obligations.OpSelectsTheCommand : Prop :=
  ∀ c : CommandWord,
    let base := BitVec.ofNat 16 (c.toNat / 2 ^ 48)
    let len := BitVec.ofNat 16 (c.toNat / 2 ^ 32 % 2 ^ 16)
    let word := BitVec.ofNat 16 (c.toNat / 2 ^ 16 % 2 ^ 16)
    (c.toNat % 8 = 0 → decode c = .parseHeader base len) ∧
    (c.toNat % 8 = 1 → decode c = .parseExtension base len) ∧
    (c.toNat % 8 = 2 → decode c = .infoVersion word) ∧
    (c.toNat % 8 = 3 → decode c = .infoPadding word) ∧
    (c.toNat % 8 = 4 → decode c = .infoExtension word) ∧
    (c.toNat % 8 = 5 → decode c = .infoCsrcCount word) ∧
    (c.toNat % 8 = 6 → decode c = .infoMarker word) ∧
    (c.toNat % 8 = 7 → decode c = .infoPayloadType word)

/-- 30_encoding R120, R126: the number each line of the assembler stands for. -/
def Obligations.AssembledWordIsTheSpecsNumber : Prop :=
  ∀ base len word : Half,
    (encode (.parseHeader base len)).toNat = base.toNat * 2 ^ 48 + len.toNat * 2 ^ 32 + 0 ∧
    (encode (.parseExtension base len)).toNat = base.toNat * 2 ^ 48 + len.toNat * 2 ^ 32 + 1 ∧
    (encode (.infoVersion word)).toNat = word.toNat * 2 ^ 16 + 2 ∧
    (encode (.infoPadding word)).toNat = word.toNat * 2 ^ 16 + 3 ∧
    (encode (.infoExtension word)).toNat = word.toNat * 2 ^ 16 + 4 ∧
    (encode (.infoCsrcCount word)).toNat = word.toNat * 2 ^ 16 + 5 ∧
    (encode (.infoMarker word)).toNat = word.toNat * 2 ^ 16 + 6 ∧
    (encode (.infoPayloadType word)).toNat = word.toNat * 2 ^ 16 + 7

/-- 30_encoding R123: words that differ only in RSVD decode alike and are accepted alike, so they do the same; and the
assembler writes RSVD as 0. -/
def Obligations.ReservedBitsChangeNothing : Prop :=
  (∀ c d : CommandWord, c.toNat % 8 = d.toNat % 8 → c.toNat / 2 ^ 16 = d.toNat / 2 ^ 16 →
    decode c = decode d ∧
    ∀ (s : State) (rest : List Turn), s.busy = false →
      step { s with turns := .issue c :: rest } = step { s with turns := .issue d :: rest }) ∧
  ∀ i : Instr, rsvdField (encode i) = 0

/-- 30_encoding R122: a field its command ignores has no effect. Two words for the same command, accepted and
completed, leave states that differ in the latch alone. -/
def Obligations.IgnoredOperandsHaveNoEffect : Prop :=
  ∀ (c d : CommandWord) (s : State), decode c = decode d →
    ∃ t u, exec (decode c) (s.accept c) = .next t ∧ exec (decode d) (s.accept d) = .next u ∧
      u = { t with cmd := u.cmd }

/-! ### The bit-field extractor -/

/-- 40_info_extract R140 to R145: each field is its bits of the word, that is, a shift and a mask. -/
def Obligations.InfoFieldsAreShiftsAndMasks : Prop :=
  ∀ w : Half,
    (version w).toNat = w.toNat >>> 14 &&& 0x3 ∧ (padding w).toNat = w.toNat >>> 13 &&& 0x1 ∧
    (extension w).toNat = w.toNat >>> 12 &&& 0x1 ∧ (csrcCount w).toNat = w.toNat >>> 8 &&& 0xF ∧
    (marker w).toNat = w.toNat >>> 7 &&& 0x1 ∧ (payloadType w).toNat = w.toNat &&& 0x7F

/-- 40_info_extract R147: the six fields cover the word exactly once, so they determine it. -/
def Obligations.InfoFieldsPartitionTheWord : Prop :=
  (∀ w : Half, w.toNat = (version w).toNat * 2 ^ 14 + (padding w).toNat * 2 ^ 13 + (extension w).toNat * 2 ^ 12 +
    (csrcCount w).toNat * 2 ^ 8 + (marker w).toNat * 2 ^ 7 + (payloadType w).toNat) ∧
  ∀ (v : BitVec 2) (p x : BitVec 1) (cc : BitVec 4) (m : BitVec 1) (pt : BitVec 7) (w : Half),
    w = v ++ p ++ x ++ cc ++ m ++ pt →
      version w = v ∧ padding w = p ∧ extension w = x ∧ csrcCount w = cc ∧ marker w = m ∧ payloadType w = pt

/-- 40_info_extract R149 to R154: each INFO_* command has its word, completes from every state, puts its field of the
operand into RES_FIELD, and changes nothing but its outcome. THE MODEL'S CHOICE in two places: that it completes from an
idle state too, where COMPLETE is not enabled (log 13), and that the two ports keep their data (log 9). -/
def Obligations.InfoCommandsWriteTheirField : Prop :=
  ∀ (w : Half) (s : State),
    (encode (.infoVersion w) = BitVec.ofNat 64 (w.toNat * 2 ^ 16 + 2) ∧
      ∃ t, exec (.infoVersion w) s = .next t ∧ FieldWritten (w.toNat >>> 14 &&& 0x3) s t) ∧
    (encode (.infoPadding w) = BitVec.ofNat 64 (w.toNat * 2 ^ 16 + 3) ∧
      ∃ t, exec (.infoPadding w) s = .next t ∧ FieldWritten (w.toNat >>> 13 &&& 0x1) s t) ∧
    (encode (.infoExtension w) = BitVec.ofNat 64 (w.toNat * 2 ^ 16 + 4) ∧
      ∃ t, exec (.infoExtension w) s = .next t ∧ FieldWritten (w.toNat >>> 12 &&& 0x1) s t) ∧
    (encode (.infoCsrcCount w) = BitVec.ofNat 64 (w.toNat * 2 ^ 16 + 5) ∧
      ∃ t, exec (.infoCsrcCount w) s = .next t ∧ FieldWritten (w.toNat >>> 8 &&& 0xF) s t) ∧
    (encode (.infoMarker w) = BitVec.ofNat 64 (w.toNat * 2 ^ 16 + 6) ∧
      ∃ t, exec (.infoMarker w) s = .next t ∧ FieldWritten (w.toNat >>> 7 &&& 0x1) s t) ∧
    (encode (.infoPayloadType w) = BitVec.ofNat 64 (w.toNat * 2 ^ 16 + 7) ∧
      ∃ t, exec (.infoPayloadType w) s = .next t ∧ FieldWritten (w.toNat &&& 0x7F) s t)

/-! ### The parse commands -/

/-- 00_scope R13, 20_memory R87: BE16 and BE32 take the byte at the lowest address as the most significant. -/
def Obligations.BigEndianReads : Prop :=
  ∀ (rd : Nat → Byte) (a : Nat),
    (be16 rd a).toNat = (rd a).toNat * 2 ^ 8 + (rd (a + 1)).toNat ∧
    (be32 rd a).toNat = (rd a).toNat * 2 ^ 24 + (rd (a + 1)).toNat * 2 ^ 16 + (rd (a + 2)).toNat * 2 ^ 8 +
      (rd (a + 3)).toNat

/-- 42_extension_parse R200 to R205: PARSE_EXTENSION on specified operands, in each of its three cases. (That the two
ports keep their data is the model's choice, log 9.) -/
def Obligations.ParseExtensionDecodesTheBlock : Prop :=
  ∀ (a n : Half) (s : State), s.hazard = false → a.toNat + n.toNat ≤ s.config.pbufBytes →
    let ehl := (be16 s.byteAt (a.toNat + 2)).toNat
    (n.toNat < 4 →
      ∃ t, exec (.parseExtension a n) s = .next t ∧ FailedWith .extensionHeaderMissing s t) ∧
    (4 ≤ n.toNat → n.toNat - 4 < 4 * ehl →
      ∃ t, exec (.parseExtension a n) s = .next t ∧ FailedWith .insufficientExtensionData s t) ∧
    (4 ≤ n.toNat → 4 * ehl ≤ n.toNat - 4 →
      ∃ t, exec (.parseExtension a n) s = .next t ∧ CompletionFrame s t ∧ t.code = .ok ∧ t.xp = true ∧
        HoldsExtAt a.toNat ehl s t ∧
        { t.results with resExtId := none, resExtLen := none, xdata := [] } = Results.noValue)

/-- 41_header_parse R170, 60_exceptions R231: fewer than 12 bytes is HeaderTooSmall, whatever the bytes. (That the two
ports keep their data is the model's choice, log 9.) -/
def Obligations.ShortBufferIsHeaderTooSmall : Prop :=
  ∀ (b l : Half) (s : State), s.hazard = false → b.toNat + l.toNat ≤ s.config.pbufBytes → l.toNat < 12 →
    ∃ t, exec (.parseHeader b l) s = .next t ∧ FailedWith .headerTooSmall s t

/-- 41_header_parse R178, 60_exceptions R232: exactly when 4*CC bytes do not follow the fixed header, which needs CC >=
1 and a length from 12 to 71. (That the two ports keep their data is the model's choice, log 9.) -/
def Obligations.MissingCsrcWordsAreInsufficientCsrcData : Prop :=
  ∀ (b l : Half) (s : State), s.hazard = false → b.toNat + l.toNat ≤ s.config.pbufBytes →
    let cc := (csrcCount (be16 s.byteAt b.toNat)).toNat
    (12 ≤ l.toNat → l.toNat - 12 < 4 * cc →
      ∃ t, exec (.parseHeader b l) s = .next t ∧ FailedWith .insufficientCsrcData s t) ∧
    ∀ t, exec (.parseHeader b l) s = .next t → t.code = .error .insufficientCsrcData →
      l.toNat - 12 < 4 * cc ∧ 1 ≤ cc ∧ 12 ≤ l.toNat ∧ l.toNat ≤ 71

/-- 60_exceptions R233, R234: the two errors of the extension decode, under PARSE_HEADER (X = 1, the checks before
passed) and under PARSE_EXTENSION. (That the two ports keep their data is the model's choice, log 9.) -/
def Obligations.ShortExtensionsAreReported : Prop :=
  ∀ (b l : Half) (s : State), s.hazard = false → b.toNat + l.toNat ≤ s.config.pbufBytes →
    (let e := 12 + 4 * (csrcCount (be16 s.byteAt b.toNat)).toNat
     extension (be16 s.byteAt b.toNat) = 1#1 → e ≤ l.toNat →
      (l.toNat - e < 4 →
        ∃ t, exec (.parseHeader b l) s = .next t ∧ FailedWith .extensionHeaderMissing s t) ∧
      (4 ≤ l.toNat - e → l.toNat - e - 4 < 4 * (be16 s.byteAt (b.toNat + e + 2)).toNat →
        ∃ t, exec (.parseHeader b l) s = .next t ∧ FailedWith .insufficientExtensionData s t)) ∧
    (l.toNat < 4 →
      ∃ t, exec (.parseExtension b l) s = .next t ∧ FailedWith .extensionHeaderMissing s t) ∧
    (4 ≤ l.toNat → l.toNat - 4 < 4 * (be16 s.byteAt (b.toNat + 2)).toNat →
      ∃ t, exec (.parseExtension b l) s = .next t ∧ FailedWith .insufficientExtensionData s t)

/-- 60_exceptions R235: a command reports the first failing check in the source's order, or OK when none fails. -/
def Obligations.FirstFailingCheckIsReported : Prop :=
  ∀ (b l : Half) (s : State), s.hazard = false → b.toNat + l.toNat ≤ s.config.pbufBytes →
    (let info := be16 s.byteAt b.toNat
     let e := 12 + 4 * (csrcCount info).toNat
     ∃ t, exec (.parseHeader b l) s = .next t ∧ t.code =
      if l.toNat < 12 then .error .headerTooSmall
      else if l.toNat < e then .error .insufficientCsrcData
      else if extension info = 1#1 ∧ l.toNat < e + 4 then .error .extensionHeaderMissing
      else if extension info = 1#1 ∧ l.toNat < e + 4 + 4 * (be16 s.byteAt (b.toNat + e + 2)).toNat then
        .error .insufficientExtensionData
      else .ok) ∧
    (∃ t, exec (.parseExtension b l) s = .next t ∧ t.code =
      if l.toNat < 4 then .error .extensionHeaderMissing
      else if l.toNat < 4 + 4 * (be16 s.byteAt (b.toNat + 2)).toNat then .error .insufficientExtensionData
      else .ok) ∧
    ∀ i : Instr, 2 ≤ i.op.toNat → ∃ t, exec i s = .next t ∧ t.code = .ok

/-- 41_header_parse R171 to R175, R179 to R182: what a successful PARSE_HEADER leaves, with and without an extension
block. (That the two ports keep their data is the model's choice, log 9.) -/
def Obligations.ParseHeaderCommitsTheHeader : Prop :=
  ∀ (b l : Half) (s : State), s.hazard = false → b.toNat + l.toNat ≤ s.config.pbufBytes →
    let info := be16 s.byteAt b.toNat
    let cc := (csrcCount info).toNat
    let e := b.toNat + 12 + 4 * cc
    let ehl := (be16 s.byteAt (e + 2)).toNat
    12 + 4 * cc ≤ l.toNat →
    (extension info = 1#1 → 16 + 4 * cc + 4 * ehl ≤ l.toNat) →
    ∃ t, exec (.parseHeader b l) s = .next t ∧ CompletionFrame s t ∧ t.code = .ok ∧
      t.results.resInfo = some info ∧ t.results.resSeq = some (be16 s.byteAt (b.toNat + 2)) ∧
      t.results.resTs = some (be32 s.byteAt (b.toNat + 4)) ∧
      t.results.resSsrc = some (be32 s.byteAt (b.toNat + 8)) ∧
      (∀ i : Fin csrcMax, t.results.csrc[i.val] =
        if i.val < cc then some (be32 s.byteAt (b.toNat + 12 + 4 * i.val)) else none) ∧
      t.results.resField = none ∧
      (extension info = 1#1 → t.xp = true ∧ HoldsExtAt e ehl s t) ∧
      (extension info ≠ 1#1 → t.xp = false ∧ t.results.NoExt)

/-- 10_state R47, 41_header_parse R183: a parse command that ends in an error writes only STATUS, and every other result
word holds no value. (That the two ports keep their data is the model's choice, log 9.) -/
def Obligations.ParseErrorsWriteOnlyStatus : Prop :=
  ∀ (b l : Half) (s t : State) (i : Instr) (e : ParseError), s.hazard = false →
    b.toNat + l.toNat ≤ s.config.pbufBytes → i = .parseHeader b l ∨ i = .parseExtension b l →
    exec i s = .next t → t.code = .error e → FailedWith e s t

/-- 42_extension_parse R208, 60_exceptions R239: with X = 1 and the CSRC check passed, PARSE_HEADER reports what
PARSE_EXTENSION reports on the rest of the buffer, code and extension words alike. A rest that begins at address 65536,
which no BASE names, is empty, and its error is ExtensionHeaderMissing. (That the two ports keep their data is the
model's choice, log 9.) -/
def Obligations.ExtensionErrorsPropagateUnchanged : Prop :=
  ∀ (b l : Half) (s : State), s.hazard = false → b.toNat + l.toNat ≤ s.config.pbufBytes →
    s.config.pbufBytes ≤ 65536 →
    let e := 12 + 4 * (csrcCount (be16 s.byteAt b.toNat)).toNat
    extension (be16 s.byteAt b.toNat) = 1#1 → e ≤ l.toNat →
    ∃ t, exec (.parseHeader b l) s = .next t ∧
      (b.toNat + e = 65536 → FailedWith .extensionHeaderMissing s t) ∧
      (b.toNat + e < 65536 →
        ∃ u, exec (.parseExtension (BitVec.ofNat 16 (b.toNat + e)) (BitVec.ofNat 16 (l.toNat - e))) s = .next u ∧
          t.code = u.code ∧ t.xp = u.xp ∧ t.results.resExtId = u.results.resExtId ∧
          t.results.resExtLen = u.results.resExtLen ∧ t.results.xdata = u.results.xdata)

/-- 20_memory R82, 10_state R52: the outcome of a parse command depends on the bytes of its buffer and on nothing else
of the state: not on other bytes of PBUF, not on earlier results, not on STATUS. -/
def Obligations.ParseOutcomeDependsOnlyOnItsBuffer : Prop :=
  ∀ (b l : Half) (i : Instr) (s u : State), i = .parseHeader b l ∨ i = .parseExtension b l →
    s.hazard = false → u.hazard = false →
    b.toNat + l.toNat ≤ s.config.pbufBytes → b.toNat + l.toNat ≤ u.config.pbufBytes →
    (∀ k < l.toNat, s.byteAt (b.toNat + k) = u.byteAt (b.toNat + k)) →
    ∃ s' u', exec i s = .next s' ∧ exec i u = .next u' ∧
      s'.code = u'.code ∧ s'.xp = u'.xp ∧ s'.results = u'.results

/-- 41_header_parse R181, 42_extension_parse R206: bytes after the header, or after the extension data, do not matter.
A parse that succeeds ends in the same state for every length its header fits in. -/
def Obligations.TrailingBytesAreIgnored : Prop :=
  ∀ (b l m : Half) (s t : State), s.hazard = false →
    b.toNat + l.toNat ≤ s.config.pbufBytes → b.toNat + m.toNat ≤ s.config.pbufBytes → t.code = .ok →
    (exec (.parseHeader b l) s = .next t →
      (let e := 12 + 4 * (csrcCount (be16 s.byteAt b.toNat)).toNat
       if t.xp then e + 4 + 4 * t.results.xdata.length ≤ m.toNat else e ≤ m.toNat) →
      exec (.parseHeader b m) s = .next t) ∧
    (exec (.parseExtension b l) s = .next t → 4 + 4 * t.results.xdata.length ≤ m.toNat →
      exec (.parseExtension b m) s = .next t)

/-- 41_header_parse R186, 42_extension_parse R211, R212: the header, and the extension block, fit the buffer; so ehl is
at most 16379 under PARSE_HEADER and 16382 under PARSE_EXTENSION; a larger ehl always ends in InsufficientExtensionData.
(That the two ports keep their data is the model's choice, log 9.) -/
def Obligations.DecodedHeadersFitTheirBuffer : Prop :=
  ∀ (b l : Half) (s t : State), s.hazard = false → b.toNat + l.toNat ≤ s.config.pbufBytes →
    (exec (.parseHeader b l) s = .next t → t.code = .ok →
      ∃ info, t.results.resInfo = some info ∧
        12 + 4 * (csrcCount info).toNat + (if t.xp then 4 + 4 * t.results.xdata.length else 0) ≤ l.toNat ∧
        t.results.xdata.length ≤ 16379) ∧
    (exec (.parseExtension b l) s = .next t → t.code = .ok →
      ∃ ehl, t.results.resExtLen = some ehl ∧ 4 + 4 * ehl.toNat ≤ l.toNat ∧ ehl.toNat ≤ 16382 ∧
        t.results.xdata.length = ehl.toNat) ∧
    (exec (.parseExtension b l) s = .next t → 4 ≤ l.toNat → 16382 < (be16 s.byteAt (b.toNat + 2)).toNat →
      FailedWith .insufficientExtensionData s t) ∧
    (let e := 12 + 4 * (csrcCount (be16 s.byteAt b.toNat)).toNat
     exec (.parseHeader b l) s = .next t → extension (be16 s.byteAt b.toNat) = 1#1 → e + 4 ≤ l.toNat →
      16382 < (be16 s.byteAt (b.toNat + e + 2)).toNat → FailedWith .insufficientExtensionData s t)

/-- 41_header_parse R187: a header written into PBUF byte by byte as 30_encoding R110 lays it out, at any address and
in any buffer that holds it, comes back whole: every field, the CSRC list and the extension words in order. -/
def Obligations.WrittenHeaderParsesBack : Prop :=
  ∀ (h : WireHeader) (b l : Half) (s : State), h.WellFormed → s.hazard = false →
    b.toNat + l.toNat ≤ s.config.pbufBytes → h.bytes.length ≤ l.toNat →
    (∀ k (hk : k < h.bytes.length), s.byteAt (b.toNat + k) = h.bytes[k]) →
    ∃ t info, exec (.parseHeader b l) s = .next t ∧ t.code = .ok ∧ t.results.resInfo = some info ∧
      version info = h.version ∧ padding info = h.padding ∧ extension info = BitVec.ofBool h.ext.isSome ∧
      (csrcCount info).toNat = h.csrc.length ∧ marker info = h.marker ∧ payloadType info = h.payloadType ∧
      t.results.resSeq = some h.seq ∧ t.results.resTs = some h.ts ∧ t.results.resSsrc = some h.ssrc ∧
      (∀ i : Fin csrcMax, t.results.csrc[i.val] = h.csrc[i.val]?) ∧
      t.xp = h.ext.isSome ∧ t.results.resExtId = h.ext.map (·.1) ∧
      (h.ext = none → t.results.NoExt) ∧
      ∀ x, h.ext = some x → t.results.xdata = x.2 ∧ t.results.resExtLen = some (BitVec.ofNat 16 x.2.length)

/-- THE MODEL'S CHOICE (log 3) where 60_exceptions R241 and R242 fix no result: the command still completes (70 R277),
with some outcome, and changes nothing besides. (That the two ports keep their data is the model's choice, log 9.) -/
def Obligations.UnspecifiedParseStillCompletes : Prop :=
  ∀ (b l : Half) (i : Instr) (s : State), i = .parseHeader b l ∨ i = .parseExtension b l →
    (s.hazard = true ∨ s.config.pbufBytes < b.toNat + l.toNat) →
    ∃ t, exec i s = .next t ∧ CompletionFrame s t ∧ t.freeCount = s.freeCount + 1 ∧
      t.results.xdata.length ≤ 16382

/-- 70 R277, 10_state R52: every command completes from every state and changes nothing but its outcome: not OP, not
the latch, not FAULT, not a byte of PBUF. THE MODEL'S CHOICE in two places: on parse operands that are not specified,
where 20_memory R81 fixes no behaviour, the completion and its frame rest on log 3; and that `exec` answers from an idle
state too, where COMPLETE is not enabled, rests on log 13. -/
def Obligations.EveryCommandCompletesWithItsFrame : Prop :=
  ∀ (i : Instr) (s : State), ∃ t, exec i s = .next t ∧ CompletionFrame s t

/-! ### The steps -/

/-- 10_state R50: the accept of a command by an idle block. (That the two ports keep their data is log 9.) -/
def Obligations.IssueLatchesTheCommand : Prop :=
  ∀ (s : State) (c : CommandWord) (rest : List Turn), s.busy = false → s.turns = .issue c :: rest →
    ∃ t, step s = .next t ∧
      t.cmd.op.toNat = c.toNat % 2 ^ 3 ∧ t.cmd.word.toNat = c.toNat / 2 ^ 16 % 2 ^ 16 ∧
      t.cmd.len.toNat = c.toNat / 2 ^ 32 % 2 ^ 16 ∧ t.cmd.base.toNat = c.toNat / 2 ^ 48 ∧
      t.op = t.cmd.op ∧ t.code = .none ∧ t.xp = false ∧ t.busy = true ∧ t.results = Results.noValue ∧
      (t.faults.hostRange = true ↔ s.faults.hostRange = true ∨
        (c.toNat % 8 < 2 ∧ s.config.pbufBytes < c.toNat / 2 ^ 48 + c.toNat / 2 ^ 32 % 2 ^ 16)) ∧
      t.faults.readNoValue = s.faults.readNoValue ∧ t.faults.pbufHazard = s.faults.pbufHazard ∧
      (∀ a, t.byteAt a = s.byteAt a) ∧ t.config = s.config ∧ t.regRdata = s.regRdata ∧
      t.xdRdata = s.xdRdata ∧ t.turns = rest

/-- 70 R272: a command offered while BUSY = 1 is held: the PARSER completes first, the offer still stands, and the next
step accepts it (60_exceptions R245: COMPLETE before ISSUE). -/
def Obligations.IssueWhileBusyIsHeld : Prop :=
  ∀ (s : State) (c : CommandWord) (rest : List Turn), s.busy = true → s.turns = .issue c :: rest →
    ∃ t u, step s = .next t ∧ exec s.cmd.instr s = .next t ∧ t.busy = false ∧ t.turns = s.turns ∧ t.cmd = s.cmd ∧
      t.faults = s.faults ∧ step t = .next u ∧ u.busy = true ∧ u.cmd = Latch.ofWord c ∧ u.turns = rest

/-- 10_state R51: a write at an address PBUF has: the byte, no other byte, the hazard exactly in a running parse
command's buffer, and nothing else. (That the two ports keep their data is the model's choice, log 9.) -/
def Obligations.WritePbufWritesOneByte : Prop :=
  ∀ (s : State) (a : Half) (v : Byte) (rest : List Turn), s.turns = .writePbuf a v :: rest →
    a.toNat < s.config.pbufBytes →
    ∃ t, step s = .next t ∧ (∀ x, t.byteAt x = if x = a.toNat then v else s.byteAt x) ∧
      (t.faults.pbufHazard = true ↔ s.faults.pbufHazard = true ∨
        (s.busy = true ∧ s.cmd.op.toNat < 2 ∧ s.cmd.base.toNat ≤ a.toNat ∧
          a.toNat < s.cmd.base.toNat + s.cmd.len.toNat)) ∧
      t.faults.readNoValue = s.faults.readNoValue ∧ t.faults.hostRange = s.faults.hostRange ∧
      t.busy = s.busy ∧ t.code = s.code ∧ t.op = s.op ∧ t.xp = s.xp ∧ t.results = s.results ∧ t.cmd = s.cmd ∧
      t.config = s.config ∧ t.regRdata = s.regRdata ∧ t.xdRdata = s.xdRdata ∧ t.turns = rest

/-- THE MODEL'S CHOICE (log 10) where 10_state R51 does not enable the step: a write at an address PBUF does not have
stops the machine. -/
def Obligations.WriteOutsidePbufStops : Prop :=
  ∀ (s : State) (a : Half) (v : Byte) (rest : List Turn), s.turns = .writePbuf a v :: rest →
    s.config.pbufBytes ≤ a.toNat → step s = .fault (.noSuchPbufAddress a.toNat)

/-- 10_state R53, R56, R57: READ_REG returns the word at the index, 0 at a reserved index; it changes no state but the
port's data, and records READ_NO_VALUE exactly when the word holds no value. 60_exceptions R240 gives the fault. (That
the other port keeps its data, and that this one holds what was read, is the model's choice, log 9.) -/
def Obligations.ReadRegReturnsTheWord : Prop :=
  ∀ (s : State) (n : BitVec 8) (rest : List Turn), s.turns = .readReg n :: rest →
    ∃ t, step s = .next t ∧
      t = { s with turns := rest, regRdata := t.regRdata,
                   faults := { s.faults with readNoValue := s.faults.readNoValue || t.regRdata.isNone } } ∧
      (n = 0x00#8 → t.regRdata = some s.statusWord) ∧
      (n = 0x01#8 → t.regRdata = s.results.resInfo.map fun v => BitVec.ofNat 32 v.toNat) ∧
      (n = 0x02#8 → t.regRdata = s.results.resSeq.map fun v => BitVec.ofNat 32 v.toNat) ∧
      (n = 0x03#8 → t.regRdata = s.results.resTs) ∧
      (n = 0x04#8 → t.regRdata = s.results.resSsrc) ∧
      (n = 0x05#8 → t.regRdata = s.results.resExtId.map fun v => BitVec.ofNat 32 v.toNat) ∧
      (n = 0x06#8 → t.regRdata = s.results.resExtLen.map fun v => BitVec.ofNat 32 v.toNat) ∧
      (n = 0x07#8 → t.regRdata = s.results.resField.map fun v => BitVec.ofNat 32 v.toNat) ∧
      (∀ i : Fin csrcMax, n.toNat = 0x10 + i.val → t.regRdata = s.results.csrc[i.val]) ∧
      ((0x08 ≤ n.toNat ∧ n.toNat ≤ 0x0F) ∨ 0x1F ≤ n.toNat → t.regRdata = some 0)

/-- 10_state R36, R33: STATUS read as a number, with the number of each outcome; so CODE is never 6 or 7. -/
def Obligations.StatusWordLayout : Prop :=
  ∀ s : State,
    let code := match s.code with
      | .none => 0
      | .ok => 1
      | .error .headerTooSmall => 2
      | .error .insufficientCsrcData => 3
      | .error .extensionHeaderMissing => 4
      | .error .insufficientExtensionData => 5
    s.statusWord.toNat = (if s.busy then 1 else 0) + 2 * code + 16 * s.op.toNat + (if s.xp then 128 else 0) ∧
    s.regWord 0x00#8 = some s.statusWord

/-- 10_state R54: READ_XDATA. (That the other port keeps its data, and that this one holds what was read, is the model's
choice, log 9.) -/
def Obligations.ReadXdataReturnsTheWord : Prop :=
  ∀ (s : State) (j : BitVec 14) (rest : List Turn), s.turns = .readXdata j :: rest →
    ∃ t, step s = .next t ∧
      t = { s with turns := rest, xdRdata := t.xdRdata,
                   faults := { s.faults with readNoValue := s.faults.readNoValue || t.xdRdata.isNone } } ∧
      (j.toNat < 16382 → t.xdRdata = s.results.xdata[j.toNat]?) ∧
      (16382 ≤ j.toNat → t.xdRdata = some 0)

/-- 20_memory R94: while no ISSUE, COMPLETE or RESET comes between, every read of every port can be repeated with the
same result. -/
def Obligations.ReadsAreRepeatable : Prop :=
  ∀ (s t : State) (x : Turn) (rest : List Turn), s.turns = x :: rest → x.IsAccess → step s = .next t →
    (∀ n, t.regWord n = s.regWord n) ∧ ∀ j, t.xdataWord j = s.xdataWord j

/-- 10_state R55, R60; 70 R261: RESET at any time, a running command included, gives the reset values and commits
nothing; PBUF and FAULT stay. The latch's value is the model's choice (log 7) and not claimed here; that the two ports
keep their data is the model's choice too (log 9), and the spec's reset says nothing of it. -/
def Obligations.ResetTakesTheResetValues : Prop :=
  ∀ (s : State) (rest : List Turn), s.turns = .reset :: rest →
    ∃ t, step s = .next t ∧ t.busy = false ∧ t.code = .none ∧ t.op = 0 ∧ t.xp = false ∧ t.statusWord = 0 ∧
      t.results = Results.noValue ∧ (∀ a, t.byteAt a = s.byteAt a) ∧ t.faults = s.faults ∧
      t.config = s.config ∧ t.regRdata = s.regRdata ∧ t.xdRdata = s.xdRdata ∧ t.turns = rest

/-- 10_state R60: the state a run starts from; a read of any word but STATUS finds no value, and PBUF holds what it
held at power-up. -/
def Obligations.ResetStateValues : Prop :=
  State.reset.busy = false ∧ State.reset.code = .none ∧ State.reset.op = 0 ∧ State.reset.xp = false ∧
  State.reset.statusWord = 0 ∧ State.reset.results = Results.noValue ∧ State.reset.FaultFree ∧
  (∀ n : BitVec 8, 1 ≤ n.toNat → n.toNat ≤ 7 → State.reset.regWord n = none) ∧
  (∀ n : BitVec 8, 0x10 ≤ n.toNat → n.toNat ≤ 0x1E → State.reset.regWord n = none) ∧
  (∀ j : BitVec 14, j.toNat < 16382 → State.reset.xdataWord j = none) ∧
  ∀ a, State.reset.byteAt a = Config.powerUpByte a

/-- A step runs the decoded command (10_state R52): on the PARSER's turn a busy block completes the command in its
latch; and a command issued to an idle block is the one its completion runs. THE MODEL'S CHOICE: 10_state R50 and R52
only enable these steps; that a turn of the PARSER's is where the completion comes, and that a busy block with no turn
left completes (read from the fairness of 70 R276), is the order of log 2, and `exec` as the COMPLETE step is log 13. -/
def Obligations.StepRunsTheLatchedCommand : Prop :=
  (∀ (s : State) (rest : List Turn), s.busy = true → s.turns = .parser :: rest →
    step s = exec s.cmd.instr { s with turns := rest }) ∧
  (∀ s : State, s.busy = true → s.turns = [] → step s = exec s.cmd.instr s) ∧
  ∀ (s : State) (c : CommandWord) (rest : List Turn), s.busy = false → s.turns = .issue c :: .parser :: rest →
    ∃ t, step s = .next t ∧ step t = exec (decode c) { t with turns := rest }

/-- The command the decoder reads from a table word is the one the next step runs after `withFetchWord`, which accepts
it and leaves the rest of the turns (log 12). -/
def Obligations.FetchedWordRunsNext : Prop :=
  ∀ (s : State) (nbits w : Nat) (i : Instr), decodeTableWord nbits w = some i →
    step (s.withFetchWord nbits w) = exec i (s.accept (BitVec.ofNat 64 (w % 2 ^ nbits)))

/-- 60_exceptions R243: no step removes a name from FAULT, RESET included. -/
def Obligations.FaultsAreSticky : Prop :=
  ∀ s t : State, step s = .next t → s.faults.Subset t.faults

/-- 20_memory R83: the block never writes PBUF; only the HOST's WRITE_PBUF changes a byte. -/
def Obligations.BlockNeverWritesPbuf : Prop :=
  ∀ s t : State, step s = .next t → (∀ a v rest, s.turns ≠ .writePbuf a v :: rest) →
    ∀ x, t.byteAt x = s.byteAt x

/-- 10_state R58: only completion, accept and reset change a result word or STATUS. -/
def Obligations.OnlyCompletionAcceptAndResetChangeResults : Prop :=
  ∀ s t : State, step s = .next t →
    (t.busy ≠ s.busy ∨ t.code ≠ s.code ∨ t.op ≠ s.op ∨ t.xp ≠ s.xp ∨ t.results ≠ s.results) →
    (s.busy = true ∧ ∃ r, exec s.cmd.instr { s with turns := r } = .next t) ∨
    (s.busy = false ∧ ∃ c rest, s.turns = .issue c :: rest) ∨ ∃ rest, s.turns = .reset :: rest

/-- The invariant holds at reset. -/
def Obligations.ResetMeetsTheInvariant : Prop := Inv State.reset

/-- THE INVARIANT: every step keeps it, from every state that meets it. It says that PBUF keeps its canonical form,
that STATUS.OP is CMD_OP, that nothing can be read while BUSY = 1, and, with FAULT empty, that exactly the words of
10_state R46 and R47 hold a value, with the invariants of 41_header_parse R182. -/
def Obligations.StepKeepsTheInvariant : Prop :=
  ∀ s t : State, Inv s → step s = .next t → Inv t

/-- 70 R273: while BUSY = 1 every result word but STATUS holds no value, and STATUS can be read. -/
def Obligations.ResultsHoldNoValueWhileBusy : Prop :=
  ∀ s : State, Inv s → s.busy = true →
    s.regWord 0x00#8 = some s.statusWord ∧
    (∀ n : BitVec 8, 1 ≤ n.toNat → n.toNat ≤ 7 → s.regWord n = none) ∧
    (∀ n : BitVec 8, 0x10 ≤ n.toNat → n.toNat ≤ 0x1E → s.regWord n = none) ∧
    ∀ j : BitVec 14, j.toNat < 16382 → s.xdataWord j = none

/-- 70 R274: the results are lost at the next accept, that of an INFO_* command included: after it has completed, its
field is the only word that holds a value. -/
def Obligations.InfoCommandLosesEarlierResults : Prop :=
  ∀ (s : State) (c : CommandWord) (rest : List Turn), s.busy = false → 2 ≤ c.toNat % 8 →
    s.turns = .issue c :: .parser :: rest →
    ∃ t, Sys2Proof.core.run 2 s = .next t ∧ t.busy = false ∧ t.code = .ok ∧ (t.regWord 0x07#8).isSome ∧
      (∀ n : BitVec 8, 1 ≤ n.toNat → n.toNat ≤ 6 → t.regWord n = none) ∧
      (∀ n : BitVec 8, 0x10 ≤ n.toNat → n.toNat ≤ 0x1E → t.regWord n = none) ∧
      ∀ j : BitVec 14, j.toNat < 16382 → t.xdataWord j = none

/-- 10_state R35: with FAULT empty, XP is 1 exactly when the last command is complete, ended with OK, and was
PARSE_EXTENSION or PARSE_HEADER with X = 1. -/
def Obligations.XpMeansAnExtensionWasDecoded : Prop :=
  ∀ s : State, Inv s → s.FaultFree →
    (s.xp = true ↔ s.busy = false ∧ s.code = .ok ∧
      (s.op = 0b001#3 ∨ s.op = 0b000#3 ∧ ∃ info, s.results.resInfo = some info ∧ extension info = 1#1))

/-- 60_exceptions R238: after an error the block takes the next command as after a success: nothing of the last
command's outcome shows in the state after an accept. -/
def Obligations.AcceptForgetsTheLastOutcome : Prop :=
  ∀ (s u : State) (c : CommandWord) (rest : List Turn), s.busy = false → s.turns = .issue c :: rest →
    u = { s with code := u.code, op := u.op, xp := u.xp, results := u.results, cmd := u.cmd, hazard := u.hazard } →
    step u = step s

/-- 70 R276, R277: every accepted command ends. A busy block whose HOST writes only where PBUF has bytes is idle again
after at most one step more than there are turns. -/
def Obligations.BusyBlockBecomesIdle : Prop :=
  ∀ s : State, s.busy = true → (∀ a v, .writePbuf a v ∈ s.turns → a.toNat < s.config.pbufBytes) →
    ∃ k t, k ≤ s.turns.length + 1 ∧ Sys2Proof.core.run k s = .next t ∧ t.busy = false

/-- 10_state R52, 20_memory R98: a command reads PBUF as it stood at its accept. Whatever the HOST reads and writes
while the command runs, if FAULT is empty afterwards the outcome is the one the state before had. -/
def Obligations.CommandSeesItsBufferAsAtAccept : Prop :=
  ∀ (s t : State) (xs rest : List Turn), Inv s → s.busy = true → s.turns = xs ++ rest →
    (∀ x ∈ xs, x.IsAccess) → Sys2Proof.core.run xs.length s = .next t → t.FaultFree →
    t.busy = true ∧ t.turns = rest ∧
    ∃ s' t', exec s.cmd.instr s = .next s' ∧ exec t.cmd.instr t = .next t' ∧
      t'.code = s'.code ∧ t'.xp = s'.xp ∧ t'.results = s'.results

/-- 70 R271: once the block is idle the HOST may overwrite the buffer: no hazard, and the results stay. -/
def Obligations.BufferIsFreeAtCompletion : Prop :=
  ∀ (s : State) (a : Half) (v : Byte) (rest : List Turn), s.busy = false → s.turns = .writePbuf a v :: rest →
    a.toNat < s.config.pbufBytes →
    ∃ t, step s = .next t ∧ t.byteAt a.toNat = v ∧ t.faults = s.faults ∧ (∀ n, t.regWord n = s.regWord n) ∧
      ∀ j, t.xdataWord j = s.xdataWord j

/-- 60_exceptions R253: an idle block with no turn left keeps all its state. (That the two ports keep their data too is
the model's choice, log 9.) -/
def Obligations.EndedRunStays : Prop :=
  ∀ s : State, s.busy = false → s.turns = [] → step s = .next s

/-- 10_state R32, R49; 70 R260: the pins follow STATUS.BUSY while `rst` is 0 and are 0 while it is 1, and the block
accepts an offered command exactly when `cmd_ready` is 1. -/
def Obligations.PinsFollowBusy : Prop :=
  ∀ s : State, s.cmdReady false = !s.busy ∧ s.busyPin false = s.busy ∧ s.cmdReady true = false ∧
    s.busyPin true = false ∧
    ∀ c rest, s.turns = .issue c :: rest →
      ∃ t, step s = .next t ∧ (t.turns = rest ↔ s.cmdReady false = true)

/-- 70 R278: a run that has ended stays ended, whatever reads, writes and resets are left; and what the HOST observes of
it stays, until a RESET. -/
def Obligations.EndedRunStaysEnded : Prop :=
  ∀ s t : State, s.RunEnded → step s = .next t →
    t.RunEnded ∧ ((∀ rest, s.turns ≠ .reset :: rest) → t.observation = s.observation)

/-- 70 R278, 10_state R46, R47: at the end of a good run STATUS and exactly the words that R46 names hold a value. -/
def Obligations.EndedRunHoldsTheNamedWords : Prop :=
  ∀ s : State, Inv s → s.GoodEnd →
    s.regWord 0x00#8 = some s.statusWord ∧
    (∀ n : BitVec 8, (1 ≤ n.toNat ∧ n.toNat ≤ 7) ∨ (0x10 ≤ n.toNat ∧ n.toNat ≤ 0x1E) →
      ((s.regWord n).isSome = true ↔ n ∈ s.namedRegs)) ∧
    ∀ j : BitVec 14, j.toNat < 16382 → ((s.xdataWord j).isSome = true ↔ j.toNat < s.namedXdata)

/-- 70 R278: the HOST can make the observation. At the end of a good run each read of STATUS, of a named register and of
a named XDATA word returns its value, and leaves the run good, ended and with the same observation. -/
def Obligations.EndedRunCanBeObserved : Prop :=
  ∀ (s : State) (rest : List Turn), Inv s → s.GoodEnd →
    (∀ n : BitVec 8, s.turns = .readReg n :: rest → n = 0x00#8 ∨ n ∈ s.namedRegs →
      ∃ t v, step s = .next t ∧ s.regWord n = some v ∧ t.regRdata = some v ∧ t.GoodEnd ∧
        t.observation = s.observation) ∧
    ∀ j : BitVec 14, s.turns = .readXdata j :: rest → j.toNat < s.namedXdata →
      ∃ t v, step s = .next t ∧ s.xdataWord j = some v ∧ t.xdRdata = some v ∧ t.GoodEnd ∧
        t.observation = s.observation
end

