-- ==== Sys2Proof/Laws/State.lean ====
section
/-! SUPPORT. What each update of the state does to each field it is asked about: one lemma per field, true by `rfl`. -/

namespace Sys2Proof.Machine
section
variable (s : State) (c : Completion) (w : CommandWord) (n : BitVec 8) (j : BitVec 14) (a : Nat) (v : Byte)
variable (r : List Turn)

@[simp] theorem complete_config : (s.complete c).config = s.config := rfl
@[simp] theorem complete_busy : (s.complete c).busy = false := rfl
@[simp] theorem complete_code : (s.complete c).code = c.code := rfl
@[simp] theorem complete_op : (s.complete c).op = s.op := rfl
@[simp] theorem complete_xp : (s.complete c).xp = c.xp := rfl
@[simp] theorem complete_results : (s.complete c).results = c.results := rfl
@[simp] theorem complete_cmd : (s.complete c).cmd = s.cmd := rfl
@[simp] theorem complete_faults : (s.complete c).faults = s.faults := rfl
@[simp] theorem complete_pbuf : (s.complete c).pbuf = s.pbuf := rfl
@[simp] theorem complete_regRdata : (s.complete c).regRdata = s.regRdata := rfl
@[simp] theorem complete_xdRdata : (s.complete c).xdRdata = s.xdRdata := rfl
@[simp] theorem complete_turns : (s.complete c).turns = s.turns := rfl
@[simp] theorem complete_hazard : (s.complete c).hazard = false := rfl
@[simp] theorem complete_freeCount : (s.complete c).freeCount = s.freeCount := rfl

@[simp] theorem accept_config : (s.accept w).config = s.config := rfl
@[simp] theorem accept_busy : (s.accept w).busy = true := rfl
@[simp] theorem accept_code : (s.accept w).code = .none := rfl
@[simp] theorem accept_op : (s.accept w).op = opField w := rfl
@[simp] theorem accept_xp : (s.accept w).xp = false := rfl
@[simp] theorem accept_results : (s.accept w).results = Results.noValue := rfl
@[simp] theorem accept_cmd : (s.accept w).cmd = Latch.ofWord w := rfl
@[simp] theorem accept_faults : (s.accept w).faults = { s.faults with hostRange := s.faults.hostRange || rangeBroken s.config (Latch.ofWord w) } := rfl
@[simp] theorem accept_pbuf : (s.accept w).pbuf = s.pbuf := rfl
@[simp] theorem accept_regRdata : (s.accept w).regRdata = s.regRdata := rfl
@[simp] theorem accept_xdRdata : (s.accept w).xdRdata = s.xdRdata := rfl
@[simp] theorem accept_turns : (s.accept w).turns = s.turns := rfl
@[simp] theorem accept_hazard : (s.accept w).hazard = false := rfl
@[simp] theorem accept_freeCount : (s.accept w).freeCount = s.freeCount := rfl

@[simp] theorem resetBlock_config : (s.resetBlock).config = s.config := rfl
@[simp] theorem resetBlock_busy : (s.resetBlock).busy = false := rfl
@[simp] theorem resetBlock_code : (s.resetBlock).code = .none := rfl
@[simp] theorem resetBlock_op : (s.resetBlock).op = 0 := rfl
@[simp] theorem resetBlock_xp : (s.resetBlock).xp = false := rfl
@[simp] theorem resetBlock_results : (s.resetBlock).results = Results.noValue := rfl
@[simp] theorem resetBlock_cmd : (s.resetBlock).cmd = Latch.afterReset := rfl
@[simp] theorem resetBlock_faults : (s.resetBlock).faults = s.faults := rfl
@[simp] theorem resetBlock_pbuf : (s.resetBlock).pbuf = s.pbuf := rfl
@[simp] theorem resetBlock_regRdata : (s.resetBlock).regRdata = s.regRdata := rfl
@[simp] theorem resetBlock_xdRdata : (s.resetBlock).xdRdata = s.xdRdata := rfl
@[simp] theorem resetBlock_turns : (s.resetBlock).turns = s.turns := rfl
@[simp] theorem resetBlock_hazard : (s.resetBlock).hazard = false := rfl
@[simp] theorem resetBlock_freeCount : (s.resetBlock).freeCount = s.freeCount := rfl

@[simp] theorem readReg_config : (s.readReg n).config = s.config := rfl
@[simp] theorem readReg_busy : (s.readReg n).busy = s.busy := rfl
@[simp] theorem readReg_code : (s.readReg n).code = s.code := rfl
@[simp] theorem readReg_op : (s.readReg n).op = s.op := rfl
@[simp] theorem readReg_xp : (s.readReg n).xp = s.xp := rfl
@[simp] theorem readReg_results : (s.readReg n).results = s.results := rfl
@[simp] theorem readReg_cmd : (s.readReg n).cmd = s.cmd := rfl
@[simp] theorem readReg_faults : (s.readReg n).faults = s.faults.afterRead (s.regWord n) := rfl
@[simp] theorem readReg_pbuf : (s.readReg n).pbuf = s.pbuf := rfl
@[simp] theorem readReg_regRdata : (s.readReg n).regRdata = s.regWord n := rfl
@[simp] theorem readReg_xdRdata : (s.readReg n).xdRdata = s.xdRdata := rfl
@[simp] theorem readReg_turns : (s.readReg n).turns = s.turns := rfl
@[simp] theorem readReg_hazard : (s.readReg n).hazard = s.hazard := rfl
@[simp] theorem readReg_freeCount : (s.readReg n).freeCount = s.freeCount := rfl

@[simp] theorem readXdata_config : (s.readXdata j).config = s.config := rfl
@[simp] theorem readXdata_busy : (s.readXdata j).busy = s.busy := rfl
@[simp] theorem readXdata_code : (s.readXdata j).code = s.code := rfl
@[simp] theorem readXdata_op : (s.readXdata j).op = s.op := rfl
@[simp] theorem readXdata_xp : (s.readXdata j).xp = s.xp := rfl
@[simp] theorem readXdata_results : (s.readXdata j).results = s.results := rfl
@[simp] theorem readXdata_cmd : (s.readXdata j).cmd = s.cmd := rfl
@[simp] theorem readXdata_faults : (s.readXdata j).faults = s.faults.afterRead (s.xdataWord j) := rfl
@[simp] theorem readXdata_pbuf : (s.readXdata j).pbuf = s.pbuf := rfl
@[simp] theorem readXdata_regRdata : (s.readXdata j).regRdata = s.regRdata := rfl
@[simp] theorem readXdata_xdRdata : (s.readXdata j).xdRdata = s.xdataWord j := rfl
@[simp] theorem readXdata_turns : (s.readXdata j).turns = s.turns := rfl
@[simp] theorem readXdata_hazard : (s.readXdata j).hazard = s.hazard := rfl
@[simp] theorem readXdata_freeCount : (s.readXdata j).freeCount = s.freeCount := rfl

@[simp] theorem setByte_config : (s.setByte a v).config = s.config := rfl
@[simp] theorem setByte_busy : (s.setByte a v).busy = s.busy := rfl
@[simp] theorem setByte_code : (s.setByte a v).code = s.code := rfl
@[simp] theorem setByte_op : (s.setByte a v).op = s.op := rfl
@[simp] theorem setByte_xp : (s.setByte a v).xp = s.xp := rfl
@[simp] theorem setByte_results : (s.setByte a v).results = s.results := rfl
@[simp] theorem setByte_cmd : (s.setByte a v).cmd = s.cmd := rfl
@[simp] theorem setByte_faults : (s.setByte a v).faults = s.faults := rfl
@[simp] theorem setByte_pbuf : (s.setByte a v).pbuf = Memory.set s.pbuf a v := rfl
@[simp] theorem setByte_regRdata : (s.setByte a v).regRdata = s.regRdata := rfl
@[simp] theorem setByte_xdRdata : (s.setByte a v).xdRdata = s.xdRdata := rfl
@[simp] theorem setByte_turns : (s.setByte a v).turns = s.turns := rfl
@[simp] theorem setByte_hazard : (s.setByte a v).hazard = s.hazard := rfl
@[simp] theorem setByte_freeCount : (s.setByte a v).freeCount = s.freeCount := rfl

@[simp] theorem noteHazard_config : (s.noteHazard a).config = s.config := rfl
@[simp] theorem noteHazard_busy : (s.noteHazard a).busy = s.busy := rfl
@[simp] theorem noteHazard_code : (s.noteHazard a).code = s.code := rfl
@[simp] theorem noteHazard_op : (s.noteHazard a).op = s.op := rfl
@[simp] theorem noteHazard_xp : (s.noteHazard a).xp = s.xp := rfl
@[simp] theorem noteHazard_results : (s.noteHazard a).results = s.results := rfl
@[simp] theorem noteHazard_cmd : (s.noteHazard a).cmd = s.cmd := rfl
@[simp] theorem noteHazard_faults : (s.noteHazard a).faults = { s.faults with pbufHazard := s.faults.pbufHazard || s.hazardAt a } := rfl
@[simp] theorem noteHazard_pbuf : (s.noteHazard a).pbuf = s.pbuf := rfl
@[simp] theorem noteHazard_regRdata : (s.noteHazard a).regRdata = s.regRdata := rfl
@[simp] theorem noteHazard_xdRdata : (s.noteHazard a).xdRdata = s.xdRdata := rfl
@[simp] theorem noteHazard_turns : (s.noteHazard a).turns = s.turns := rfl
@[simp] theorem noteHazard_hazard : (s.noteHazard a).hazard = (s.hazard || s.hazardAt a) := rfl
@[simp] theorem noteHazard_freeCount : (s.noteHazard a).freeCount = s.freeCount := rfl

@[simp] theorem afterTurn_config : (s.afterTurn r).config = s.config := rfl
@[simp] theorem afterTurn_busy : (s.afterTurn r).busy = s.busy := rfl
@[simp] theorem afterTurn_code : (s.afterTurn r).code = s.code := rfl
@[simp] theorem afterTurn_op : (s.afterTurn r).op = s.op := rfl
@[simp] theorem afterTurn_xp : (s.afterTurn r).xp = s.xp := rfl
@[simp] theorem afterTurn_results : (s.afterTurn r).results = s.results := rfl
@[simp] theorem afterTurn_cmd : (s.afterTurn r).cmd = s.cmd := rfl
@[simp] theorem afterTurn_faults : (s.afterTurn r).faults = s.faults := rfl
@[simp] theorem afterTurn_pbuf : (s.afterTurn r).pbuf = s.pbuf := rfl
@[simp] theorem afterTurn_regRdata : (s.afterTurn r).regRdata = s.regRdata := rfl
@[simp] theorem afterTurn_xdRdata : (s.afterTurn r).xdRdata = s.xdRdata := rfl
@[simp] theorem afterTurn_turns : (s.afterTurn r).turns = r := rfl
@[simp] theorem afterTurn_hazard : (s.afterTurn r).hazard = s.hazard := rfl
@[simp] theorem afterTurn_freeCount : (s.afterTurn r).freeCount = s.freeCount := rfl

@[simp] theorem withFreeCount_config : (s.withFreeCount a).config = s.config := rfl
@[simp] theorem withFreeCount_busy : (s.withFreeCount a).busy = s.busy := rfl
@[simp] theorem withFreeCount_code : (s.withFreeCount a).code = s.code := rfl
@[simp] theorem withFreeCount_op : (s.withFreeCount a).op = s.op := rfl
@[simp] theorem withFreeCount_xp : (s.withFreeCount a).xp = s.xp := rfl
@[simp] theorem withFreeCount_results : (s.withFreeCount a).results = s.results := rfl
@[simp] theorem withFreeCount_cmd : (s.withFreeCount a).cmd = s.cmd := rfl
@[simp] theorem withFreeCount_faults : (s.withFreeCount a).faults = s.faults := rfl
@[simp] theorem withFreeCount_pbuf : (s.withFreeCount a).pbuf = s.pbuf := rfl
@[simp] theorem withFreeCount_regRdata : (s.withFreeCount a).regRdata = s.regRdata := rfl
@[simp] theorem withFreeCount_xdRdata : (s.withFreeCount a).xdRdata = s.xdRdata := rfl
@[simp] theorem withFreeCount_turns : (s.withFreeCount a).turns = s.turns := rfl
@[simp] theorem withFreeCount_hazard : (s.withFreeCount a).hazard = s.hazard := rfl
@[simp] theorem withFreeCount_freeCount : (s.withFreeCount a).freeCount = a := rfl

@[simp] theorem noValue_xdata : Results.noValue.xdata = [] := rfl
@[simp] theorem failed_code (e : ParseError) : (Completion.failed e).code = .error e := rfl
@[simp] theorem failed_xp (e : ParseError) : (Completion.failed e).xp = false := rfl
@[simp] theorem failed_results (e : ParseError) : (Completion.failed e).results = Results.noValue := rfl
@[simp] theorem field_code (f : BitVec 7) : (Completion.field f).code = .ok := rfl
@[simp] theorem field_xp (f : BitVec 7) : (Completion.field f).xp = false := rfl
@[simp] theorem field_results (f : BitVec 7) :
    (Completion.field f).results = { Results.noValue with resField := some f } := rfl

/-- Updates that leave PBUF alone leave every byte alone. -/
theorem byteAt_of_pbuf {s t : State} (h : t.pbuf = s.pbuf) (a : Nat) : t.byteAt a = s.byteAt a := by
  simp [State.byteAt, h]

/-- The port reads depend on STATUS and the result words alone. -/
theorem regWord_congr {s t : State} (hb : t.busy = s.busy) (hc : t.code = s.code) (ho : t.op = s.op)
    (hx : t.xp = s.xp) (hr : t.results = s.results) (n : BitVec 8) : t.regWord n = s.regWord n := by
  simp [State.regWord, State.statusWord, hb, hc, ho, hx, hr]

theorem xdataWord_congr {s t : State} (hr : t.results = s.results) (j : BitVec 14) :
    t.xdataWord j = s.xdataWord j := by
  simp [State.xdataWord, hr]

end
end Sys2Proof.Machine
end

