-- ==== Sys2Proof/Laws/Parse.lean ====
section
/-! SUPPORT. What the two decoders answer, said once. -/

namespace Sys2Proof.Machine

@[simp] theorem length_readWords (rd : Nat → Byte) (a n : Nat) : (readWords rd a n).length = n := by
  simp [readWords]

theorem getElem?_readWords (rd : Nat → Byte) (a n i : Nat) :
    (readWords rd a n)[i]? = if i < n then some (be32 rd (a + 4 * i)) else none := by
  simp [readWords]
  split <;> simp_all

@[simp] theorem getElem_csrcFile (l : List Word) (i : Nat) (h : i < csrcMax) : (csrcFile l)[i] = l[i]? := by
  simp [csrcFile]

/-- The reads of a big-endian field depend on its own bytes only. -/
theorem be16_congr {rd rd' : Nat → Byte} {a : Nat} (h : ∀ k < 2, rd (a + k) = rd' (a + k)) :
    be16 rd a = be16 rd' a := by
  simp [be16, h 1 (by omega), show rd a = rd' a from h 0 (by omega)]

theorem be32_congr {rd rd' : Nat → Byte} {a : Nat} (h : ∀ k < 4, rd (a + k) = rd' (a + k)) :
    be32 rd a = be32 rd' a := by
  simp [be32, h 1 (by omega), h 2 (by omega), h 3 (by omega), show rd a = rd' a from h 0 (by omega)]

theorem readWords_congr {rd rd' : Nat → Byte} {a n : Nat} (h : ∀ k < 4 * n, rd (a + k) = rd' (a + k)) :
    readWords rd a n = readWords rd' a n := by
  refine List.map_congr_left fun i hi => be32_congr fun k hk => ?_
  have := List.mem_range.1 hi
  simpa [Nat.add_assoc] using h (4 * i + k) (by omega)

/-- The three answers of ExtDecode, each with what it says about the buffer. -/
theorem extDecode_cases (rd : Nat → Byte) (a n : Nat) :
    (n < 4 ∧ extDecode rd a n = .error .extensionHeaderMissing) ∨
    (4 ≤ n ∧ n - 4 < 4 * (be16 rd (a + 2)).toNat ∧ extDecode rd a n = .error .insufficientExtensionData) ∨
    (4 ≤ n ∧ 4 * (be16 rd (a + 2)).toNat ≤ n - 4 ∧
      extDecode rd a n = .ok ⟨be16 rd a, be16 rd (a + 2), readWords rd (a + 4) (be16 rd (a + 2)).toNat⟩) := by
  unfold extDecode
  split
  · exact .inl ⟨‹_›, rfl⟩
  · split
    · exact .inr (.inl ⟨by omega, ‹_›, rfl⟩)
    · exact .inr (.inr ⟨by omega, by omega, rfl⟩)

/-- A decoded extension block fits its buffer, and its data are ehl words. -/
theorem extDecode_ok {rd : Nat → Byte} {a n : Nat} {x : ExtBlock} (h : extDecode rd a n = .ok x) :
    x.data.length = x.ehl.toNat ∧ 4 + 4 * x.ehl.toNat ≤ n := by
  rcases extDecode_cases rd a n with ⟨_, e⟩ | ⟨_, _, e⟩ | ⟨_, _, e⟩ <;> rw [e] at h
  · cases h
  · cases h
  · cases h; simp; omega

/-- The four kinds of answer of the header decode. -/
theorem headerDecode_cases (rd : Nat → Byte) (b l : Nat) :
    (l < 12 ∧ headerDecode rd b l = .error .headerTooSmall) ∨
    (12 ≤ l ∧ l - 12 < 4 * (csrcCount (be16 rd b)).toNat ∧ headerDecode rd b l = .error .insufficientCsrcData) ∨
    (afterCsrc rd b ≤ l ∧ extension (be16 rd b) ≠ 1#1 ∧ headerDecode rd b l = .ok (headerFields rd b none)) ∨
    (afterCsrc rd b ≤ l ∧ extension (be16 rd b) = 1#1 ∧
      ((∃ e, extDecode rd (b + afterCsrc rd b) (l - afterCsrc rd b) = .error e ∧ headerDecode rd b l = .error e) ∨
        ∃ x, extDecode rd (b + afterCsrc rd b) (l - afterCsrc rd b) = .ok x ∧
          headerDecode rd b l = .ok (headerFields rd b (some x)))) := by
  unfold headerDecode afterCsrc
  split
  · exact .inl ⟨‹_›, rfl⟩
  · split
    · exact .inr (.inl ⟨by omega, ‹_›, rfl⟩)
    · split
      · refine .inr (.inr (.inr ⟨by omega, ‹_›, ?_⟩))
        cases h : extDecode rd (b + (12 + 4 * (csrcCount (be16 rd b)).toNat))
          (l - (12 + 4 * (csrcCount (be16 rd b)).toNat)) with
        | error e => exact .inl ⟨e, rfl, by simp⟩
        | ok x => exact .inr ⟨x, rfl, by simp⟩
      · exact .inr (.inr (.inl ⟨by omega, ‹_›, rfl⟩))

/-- ExtDecode reads inside its buffer (20_memory R82). -/
theorem extDecode_congr {rd rd' : Nat → Byte} {a n : Nat} (h : ∀ k < n, rd (a + k) = rd' (a + k)) :
    extDecode rd a n = extDecode rd' a n := by
  unfold extDecode
  split
  · rfl
  · rw [be16_congr (rd := rd) (rd' := rd') (a := a) fun k hk => h k (by omega),
      be16_congr (rd := rd) (rd' := rd') (a := a + 2) fun k hk => by simpa [Nat.add_assoc] using h (2 + k) (by omega)]
    split
    · rfl
    · rw [readWords_congr (rd := rd) (rd' := rd') fun k hk => by
        simpa [Nat.add_assoc] using h (4 + k) (by omega)]

/-- The header fields of a header whose CSRC list fits its buffer are read inside it. -/
theorem headerFields_congr {rd rd' : Nat → Byte} {b l : Nat} (h : ∀ k < l, rd (b + k) = rd' (b + k))
    (hl : afterCsrc rd' b ≤ l) (x : Option ExtBlock) : headerFields rd b x = headerFields rd' b x := by
  unfold afterCsrc at hl
  have e : ∀ c, c + 2 ≤ l → be16 rd (b + c) = be16 rd' (b + c) := fun c hc =>
    be16_congr fun k hk => by simpa [Nat.add_assoc] using h (c + k) (by omega)
  have f : ∀ c, c + 4 ≤ l → be32 rd (b + c) = be32 rd' (b + c) := fun c hc =>
    be32_congr fun k hk => by simpa [Nat.add_assoc] using h (c + k) (by omega)
  unfold headerFields
  rw [show be16 rd b = be16 rd' b from e 0 (by omega), e 2 (by omega), f 4 (by omega), f 8 (by omega),
    readWords_congr (rd := rd) (rd' := rd') fun k hk => by simpa [Nat.add_assoc] using h (12 + k) (by omega)]

/-- The header parse reads inside its buffer (20_memory R82). -/
theorem headerDecode_congr {rd rd' : Nat → Byte} {b l : Nat} (h : ∀ k < l, rd (b + k) = rd' (b + k)) :
    headerDecode rd b l = headerDecode rd' b l := by
  unfold headerDecode
  split
  · rfl
  · have e : be16 rd b = be16 rd' b := be16_congr fun k hk => h k (by omega)
    rw [e]
    split
    · rfl
    · have ea : afterCsrc rd b = afterCsrc rd' b := by simp [afterCsrc, e]
      have hl : afterCsrc rd' b ≤ l := by unfold afterCsrc; omega
      rw [ea, extDecode_congr (rd := rd) (rd' := rd') fun k hk => by
        simpa [Nat.add_assoc] using h (afterCsrc rd' b + k) (by omega)]
      simp only [headerFields_congr h hl]

end Sys2Proof.Machine
end

