-- ==== Sys2Proof/Laws/Ops.lean ====
section
/-! SUPPORT. One lemma per shared operation: everything it can do. -/

namespace Sys2Proof.Machine

/-! ### The tests the operations make, as propositions -/

theorem isParseOp_iff (op : BitVec 3) : isParseOp op = true ↔ op.toNat < 2 := by
  obtain ⟨n, rfl⟩ : ∃ n : Fin 8, op = BitVec.ofFin n := ⟨op.toFin, rfl⟩
  revert n; decide

theorem covers_iff (l : Latch) (a : Nat) :
    l.covers a = true ↔ l.base.toNat ≤ a ∧ a < l.base.toNat + l.len.toNat := by
  simp [Latch.covers]

theorem rangeBroken_iff (cfg : Config) (l : Latch) :
    rangeBroken cfg l = true ↔ isParseOp l.op = true ∧ cfg.pbufBytes < l.base.toNat + l.len.toNat := by
  simp [rangeBroken]

theorem specified_iff (base len : Half) (s : State) :
    s.specified base len = true ↔ s.hazard = false ∧ base.toNat + len.toNat ≤ s.config.pbufBytes := by
  simp [State.specified]

theorem hazardAt_iff (s : State) (a : Nat) :
    s.hazardAt a = true ↔ s.busy = true ∧ isParseOp s.cmd.op = true ∧ s.cmd.covers a = true := by
  simp [State.hazardAt, and_assoc]

@[simp] theorem specified_afterTurn (base len : Half) (s : State) (r : List Turn) :
    (s.afterTurn r).specified base len = s.specified base len := rfl

@[simp] theorem hazardAt_afterTurn (s : State) (a : Nat) (r : List Turn) :
    (s.afterTurn r).hazardAt a = s.hazardAt a := rfl

@[simp] theorem byteAt_afterTurn (s : State) (a : Nat) (r : List Turn) :
    (s.afterTurn r).byteAt a = s.byteAt a := rfl

/-- A parse command whose results the spec gives completes with the outcome of its rule. -/
theorem completeParse_of_specified {base len : Half} {s : State} (h : s.specified base len = true) (c : Completion) :
    s.completeParse base len c = s.complete c := by
  simp [State.completeParse, h]

/-- Whatever a parse command's outcome, its completion is a completion with some outcome; only the count of free
outcomes can change besides. -/
theorem completeParse_eq (base len : Half) (c : Completion) (s : State) :
    ∃ d k, s.completeParse base len c = (s.complete d).withFreeCount k ∧
      (s.specified base len = true → d = c ∧ k = s.freeCount) ∧
      (s.specified base len = false → d = Completion.free s.freeCount ∧ k = s.freeCount + 1) := by
  cases h : s.specified base len
  · exact ⟨Completion.free s.freeCount, s.freeCount + 1, by simp [State.completeParse, h], by simp, by simp⟩
  · exact ⟨c, s.freeCount, by simp only [State.completeParse, h, if_true]; rfl, by simp, by simp⟩

theorem withFreeCount_self (s : State) (d : Completion) : s.complete d = (s.complete d).withFreeCount s.freeCount := rfl

/-- What the meaning of a command can answer: the completion of the state with some outcome. -/
theorem exec_cases {i : Instr} {s t : State} (h : exec i s = .next t) :
    ∃ d k, t = (s.complete d).withFreeCount k := by
  cases i <;>
    simp only [exec, execParseHeader, execParseExtension, execInfoVersion, execInfoPadding, execInfoExtension,
      execInfoCsrcCount, execInfoMarker, execInfoPayloadType, Host.Outcome.next.injEq] at h <;> subst h
  case parseHeader base len => obtain ⟨d, k, e, -⟩ := completeParse_eq base len _ s; exact ⟨d, k, e⟩
  case parseExtension base len => obtain ⟨d, k, e, -⟩ := completeParse_eq base len _ s; exact ⟨d, k, e⟩
  all_goals exact ⟨_, _, withFreeCount_self s _⟩

/-- The free outcome has no more than XDATA's words. -/
theorem free_xdata_length (n : Nat) : (Completion.free n).results.xdata.length ≤ xdataWords := by
  simp [Completion.free]

/-- What WRITE_PBUF can do: write the byte and note a hazard, or stop at an address that does not exist. -/
theorem writePbuf_cases (a : Half) (v : Byte) (s : State) :
    (a.toNat < s.config.pbufBytes ∧ s.writePbuf a v = .next ((s.noteHazard a.toNat).setByte a.toNat v)) ∨
    (s.config.pbufBytes ≤ a.toNat ∧ s.writePbuf a v = .fault (.noSuchPbufAddress a.toNat)) := by
  unfold State.writePbuf
  split
  · exact .inl ⟨‹_›, rfl⟩
  · exact .inr ⟨by omega, rfl⟩

/-- Everything a step that goes on can be. -/
inductive StepCase (s t : State) : Prop where
  /-- The PARSER completes the latched command; `r` is what stays of the turns. -/
  | complete (r : List Turn) (busy : s.busy = true)
      (turn : (s.turns = [] ∧ r = []) ∨ s.turns = .parser :: r ∨ ∃ c q, s.turns = .issue c :: q ∧ r = s.turns)
      (eq : exec s.cmd.instr (s.afterTurn r) = .next t)
  /-- Nothing to do. -/
  | idle (busy : s.busy = false) (turn : s.turns = []) (eq : t = s)
  /-- The PARSER's turn with nothing to complete. -/
  | parserIdle (r : List Turn) (busy : s.busy = false) (turn : s.turns = .parser :: r) (eq : t = s.afterTurn r)
  | issue (c : CommandWord) (r : List Turn) (busy : s.busy = false) (turn : s.turns = .issue c :: r)
      (eq : t = (s.afterTurn r).accept c)
  | write (a : Half) (v : Byte) (r : List Turn) (turn : s.turns = .writePbuf a v :: r)
      (range : a.toNat < s.config.pbufBytes)
      (eq : t = ((s.afterTurn r).noteHazard a.toNat).setByte a.toNat v)
  | readReg (n : BitVec 8) (r : List Turn) (turn : s.turns = .readReg n :: r) (eq : t = (s.afterTurn r).readReg n)
  | readXdata (j : BitVec 14) (r : List Turn) (turn : s.turns = .readXdata j :: r)
      (eq : t = (s.afterTurn r).readXdata j)
  | reset (r : List Turn) (turn : s.turns = .reset :: r) (eq : t = (s.afterTurn r).resetBlock)

theorem afterTurn_self (s : State) : s.afterTurn s.turns = s := rfl

theorem step_cases {s t : State} (h : step s = .next t) : StepCase s t := by
  unfold step nextMove at h
  split at h
  · rename_i u hu
    split at hu
    · rename_i ht
      cases hb : s.busy <;> simp only [hb, Bool.false_eq_true, if_true, if_false] at hu <;> cases hu
      exact .complete [] hb (.inl ⟨ht, rfl⟩) (by simpa [← ht, afterTurn_self] using h)
    · rename_i r ht
      cases hb : s.busy <;> simp only [hb, Bool.false_eq_true, if_true, if_false] at hu <;> cases hu
      exact .complete r hb (.inr (.inl ht)) (by simpa using h)
    · rename_i c r ht
      cases hb : s.busy <;> simp only [hb, Bool.false_eq_true, if_true, if_false] at hu <;> cases hu
      exact .complete s.turns hb (.inr (.inr ⟨c, r, ht, rfl⟩)) (by simpa [afterTurn_self] using h)
    all_goals cases hu
  · rename_i o ho
    subst h
    split at ho
    · rename_i ht
      cases hb : s.busy <;> simp only [hb, Bool.false_eq_true, if_true, if_false] at ho <;> cases ho
      exact .idle hb ht rfl
    · rename_i r ht
      cases hb : s.busy <;> simp only [hb, Bool.false_eq_true, if_true, if_false] at ho <;> cases ho
      exact .parserIdle r hb ht rfl
    · rename_i c r ht
      cases hb : s.busy <;> simp only [hb, Bool.false_eq_true, if_true, if_false] at ho <;> cases ho
      exact .issue c r hb ht rfl
    · rename_i a v r ht
      rcases writePbuf_cases a v (s.afterTurn r) with ⟨hr, e⟩ | ⟨_, e⟩ <;> rw [e] at ho <;> cases ho
      exact .write a v r ht hr rfl
    · rename_i n r ht; cases ho; exact .readReg n r ht rfl
    · rename_i j r ht; cases ho; exact .readXdata j r ht rfl
    · rename_i r ht; cases ho; exact .reset r ht rfl

/-! ### The parse commands on specified operands -/

theorem specified_of {base len : Half} {s : State} (h : s.hazard = false)
    (hr : base.toNat + len.toNat ≤ s.config.pbufBytes) : s.specified base len = true :=
  (specified_iff base len s).mpr ⟨h, hr⟩

theorem exec_parseHeader {base len : Half} {s : State} (h : s.hazard = false)
    (hr : base.toNat + len.toNat ≤ s.config.pbufBytes) :
    exec (.parseHeader base len) s =
      .next (s.complete (Completion.ofHeader (headerDecode s.byteAt base.toNat len.toNat))) := by
  simp only [exec, execParseHeader, completeParse_of_specified (specified_of h hr)]

theorem exec_parseExtension {base len : Half} {s : State} (h : s.hazard = false)
    (hr : base.toNat + len.toNat ≤ s.config.pbufBytes) :
    exec (.parseExtension base len) s =
      .next (s.complete (Completion.ofExt (extDecode s.byteAt base.toNat len.toNat))) := by
  simp only [exec, execParseExtension, completeParse_of_specified (specified_of h hr)]

/-! ### Reads of words that hold no value -/

/-- The named result registers, when no result word holds a value. -/
theorem regWord_named_noValue {s : State} (h : s.results = Results.noValue) {n : BitVec 8} (h1 : 1 ≤ n.toNat)
    (h7 : n.toNat ≤ 7) : s.regWord n = none := by
  obtain ⟨k, rfl⟩ : ∃ k : Fin 256, n = BitVec.ofFin k := ⟨n.toFin, rfl⟩
  have : k = 1 ∨ k = 2 ∨ k = 3 ∨ k = 4 ∨ k = 5 ∨ k = 6 ∨ k = 7 := by
    simp only [BitVec.toNat_ofFin] at h1 h7
    omega
  unfold State.regWord
  rw [h]
  rcases this with rfl | rfl | rfl | rfl | rfl | rfl | rfl <;> rfl

/-- A CSRC register is the word of the CSRC file. -/
theorem regWord_csrc (s : State) (n : BitVec 8) (i : Fin csrcMax) (h : n.toNat = 0x10 + i.val) :
    s.regWord n = s.results.csrc[i.val] := by
  have hi := i.isLt
  have hn : ∀ k : BitVec 8, k.toNat < 0x10 → n ≠ k := by
    rintro k hk rfl
    omega
  have e : n.toNat - 0x10 = i.val := by omega
  unfold State.regWord
  rw [if_neg (hn _ (by decide)), if_neg (hn _ (by decide)), if_neg (hn _ (by decide)), if_neg (hn _ (by decide)),
    if_neg (hn _ (by decide)), if_neg (hn _ (by decide)), if_neg (hn _ (by decide)), if_neg (hn _ (by decide)),
    if_pos (by omega), e, Vector.getElem?_eq_getElem hi]
  rfl

end Sys2Proof.Machine
end

