-- ==== Sys2Proof/Laws/Frames.lean ====
section
/-! SUPPORT. The frame of a completion, and the shape of the outcomes it writes. -/

namespace Sys2Proof.Machine

/-- Any completion has the frame of one. -/
theorem complete_frame (s : State) (d : Completion) (k : Nat) :
    CompletionFrame s ((s.complete d).withFreeCount k) where
  busy := rfl
  op := rfl
  cmd := rfl
  faults := rfl
  pbuf := byteAt_of_pbuf rfl
  config := rfl
  regRdata := rfl
  xdRdata := rfl
  turns := rfl

theorem complete_frame_plain (s : State) (d : Completion) : CompletionFrame s (s.complete d) :=
  complete_frame s d s.freeCount

/-- The error outcome is an error completion. -/
theorem complete_failed (s : State) (e : ParseError) : FailedWith e s (s.complete (Completion.failed e)) where
  code := rfl
  xp := rfl
  results := rfl
  frame := complete_frame_plain s _

/-- The field outcome of an INFO_* command has the shape 10_state R46 gives it. -/
theorem field_shape (f : BitVec 7) :
    (Completion.field f).results.FieldShape (Completion.field f).xp := by
  refine ⟨rfl, rfl, rfl⟩

/-- A decoded extension block over empty words has the shape of PARSE_EXTENSION's success. -/
theorem withExt_shape {x : ExtBlock} (h : x.data.length = x.ehl.toNat) :
    (Results.noValue.withExt x).ExtShape true :=
  ⟨rfl, ⟨rfl, x.ehl, rfl, h⟩, rfl⟩

/-- A decoded header has the shape of PARSE_HEADER's success, if its parts agree with its info word. -/
theorem ofHeader_shape {h : HeaderBlock} (hc : h.csrc.length = (csrcCount h.info).toNat)
    (hx : h.ext.isSome = true ↔ extension h.info = 1#1) (hd : ∀ x ∈ h.ext, x.data.length = x.ehl.toNat) :
    (Results.ofHeader h).HeaderShape h.ext.isSome := by
  have hfile : ∀ i : Fin csrcMax, ((csrcFile h.csrc)[i.val]).isSome = true ↔ i.val < (csrcCount h.info).toNat := by
    intro i
    rw [getElem_csrcFile, ← hc]
    simp
  cases he : h.ext with
  | none =>
    rw [he] at hx
    simp only [Results.ofHeader, he]
    exact ⟨⟨h.info, rfl, hfile, hx⟩, rfl, rfl, rfl, rfl, nofun, fun _ => ⟨rfl, rfl, rfl⟩⟩
  | some x =>
    rw [he] at hx
    simp only [Results.ofHeader, he]
    exact ⟨⟨h.info, rfl, hfile, hx⟩, rfl, rfl, rfl, rfl, fun _ => ⟨rfl, x.ehl, rfl, hd x he⟩, nofun⟩

end Sys2Proof.Machine
end

