-- ==== Sys2Proof/Laws/Observation.lean ====
section
/-! SUPPORT. What the observation of a run depends on, and which words it names. -/

namespace Sys2Proof.Machine

theorem mem_headerIndices {cc : Nat} (hc : cc ≤ csrcMax) (n : BitVec 8) :
    n ∈ headerIndices cc ↔ (1 ≤ n.toNat ∧ n.toNat ≤ 4) ∨ (0x10 ≤ n.toNat ∧ n.toNat < 0x10 + cc) := by
  have e : ∀ k : BitVec 8, n = k ↔ n.toNat = k.toNat := fun k => BitVec.toNat_inj.symm
  simp only [headerIndices, List.mem_append, List.mem_cons, List.not_mem_nil, or_false, List.mem_map, List.mem_range, e]
  constructor
  · rintro (h | ⟨i, hi, rfl⟩)
    · simp only [BitVec.toNat_ofNat] at h
      omega
    · simp only [BitVec.toNat_ofNat]
      have : csrcMax = 15 := rfl
      omega
  · rintro (h | h)
    · exact .inl (by simp only [BitVec.toNat_ofNat]; omega)
    · have : csrcMax = 15 := rfl
      exact .inr ⟨n.toNat - 0x10, by omega, BitVec.eq_of_toNat_eq (by simp only [BitVec.toNat_ofNat]; omega)⟩

theorem mem_extIndices (n : BitVec 8) : n ∈ extIndices ↔ 5 ≤ n.toNat ∧ n.toNat ≤ 6 := by
  have e : ∀ k : BitVec 8, n = k ↔ n.toNat = k.toNat := fun k => BitVec.toNat_inj.symm
  simp only [extIndices, List.mem_cons, List.not_mem_nil, or_false, e, BitVec.toNat_ofNat]
  omega

/-- The observation depends on STATUS and the result words, as each read does. -/
theorem observation_congr {s t : State} (hb : t.busy = s.busy) (hc : t.code = s.code) (ho : t.op = s.op)
    (hx : t.xp = s.xp) (hr : t.results = s.results) : t.observation = s.observation := by
  have hreg : t.regWord = s.regWord := funext (regWord_congr hb hc ho hx hr)
  have hxd : t.xdataWord = s.xdataWord := funext (xdataWord_congr hr)
  have hext : t.namesExt = s.namesExt := by simp only [State.namesExt, State.heldInfo, hc, ho, hr]
  have hnamed : t.namedRegs = s.namedRegs := by simp only [State.namedRegs, State.heldInfo, hext, hc, ho, hr]
  have hcount : t.namedXdata = s.namedXdata := by simp only [State.namedXdata, hext, hr]
  have hst : t.statusWord = s.statusWord := by simp only [State.statusWord, hb, hc, ho, hx]
  simp only [State.observation, hreg, hxd, hnamed, hcount, hst]

end Sys2Proof.Machine
end

