-- ==== Sys2Proof/Laws/PerInstr.lean ====
section
/-! SUPPORT. Per command: its word has the operation code of 30_encoding R121 in OP and zeros in RSVD (R126). -/

namespace Sys2Proof.Laws.Opcode

def Statement (i : Instr) : Prop := opField (encode i) = i.op ∧ rsvdField (encode i) = 0

theorem packCommand_op (base len word : Half) (op : BitVec 3) : opField (packCommand base len word op) = op := by
  apply BitVec.eq_of_getElem_eq
  intro i hi
  have : i < 16 ∧ i < 32 ∧ i < 48 ∧ i < 64 := by omega
  simp [opField, packCommand, hi, this]

theorem packCommand_rsvd (base len word : Half) (op : BitVec 3) :
    rsvdField (packCommand base len word op) = 0 := by
  apply BitVec.eq_of_getElem_eq
  intro i hi
  have : 3 + i < 16 ∧ 3 + i < 32 ∧ 3 + i < 48 := by omega
  simp [rsvdField, packCommand, this]

theorem parseHeader (base len : Half) : Statement (.parseHeader base len) :=
  ⟨packCommand_op .., packCommand_rsvd ..⟩
theorem parseExtension (base len : Half) : Statement (.parseExtension base len) :=
  ⟨packCommand_op .., packCommand_rsvd ..⟩
theorem infoVersion (word : Half) : Statement (.infoVersion word) := ⟨packCommand_op .., packCommand_rsvd ..⟩
theorem infoPadding (word : Half) : Statement (.infoPadding word) := ⟨packCommand_op .., packCommand_rsvd ..⟩
theorem infoExtension (word : Half) : Statement (.infoExtension word) := ⟨packCommand_op .., packCommand_rsvd ..⟩
theorem infoCsrcCount (word : Half) : Statement (.infoCsrcCount word) := ⟨packCommand_op .., packCommand_rsvd ..⟩
theorem infoMarker (word : Half) : Statement (.infoMarker word) := ⟨packCommand_op .., packCommand_rsvd ..⟩
theorem infoPayloadType (word : Half) : Statement (.infoPayloadType word) := ⟨packCommand_op .., packCommand_rsvd ..⟩

end Sys2Proof.Laws.Opcode
end

