-- ==== Sys2Proof/Laws/Words.lean ====
section
/-! SUPPORT. Fields and words as numbers: what the extractor, the big-endian reads and the command word's fields are as
naturals, so that later proofs are arithmetic. -/

namespace Sys2Proof

theorem opField_toNat (c : CommandWord) : (opField c).toNat = c.toNat % 2 ^ 3 := by
  simp [opField]

theorem wordField_toNat (c : CommandWord) : (wordField c).toNat = c.toNat / 2 ^ 16 % 2 ^ 16 := by
  simp [wordField, Nat.shiftRight_eq_div_pow]

theorem lenField_toNat (c : CommandWord) : (lenField c).toNat = c.toNat / 2 ^ 32 % 2 ^ 16 := by
  simp [lenField, Nat.shiftRight_eq_div_pow]

theorem baseField_toNat (c : CommandWord) : (baseField c).toNat = c.toNat / 2 ^ 48 := by
  have := c.isLt
  simp only [baseField, BitVec.extractLsb'_toNat, Nat.shiftRight_eq_div_pow]
  omega

theorem rsvdField_toNat (c : CommandWord) : (rsvdField c).toNat = c.toNat / 2 ^ 3 % 2 ^ 13 := by
  simp [rsvdField, Nat.shiftRight_eq_div_pow]

namespace Machine

/-- Concatenation as a number (00_scope R12), with the widths as literals. -/
theorem be16_toNat (rd : Nat → Byte) (a : Nat) :
    (be16 rd a).toNat = (rd a).toNat <<< 8 ||| (rd (a + 1)).toNat :=
  BitVec.toNat_append _ _

end Machine
/-- The packed word of 30_encoding R120 as a number, RSVD = 0. -/
theorem packCommand_toNat (base len word : Half) (op : BitVec 3) :
    (packCommand base len word op).toNat =
      base.toNat * 2 ^ 48 + len.toNat * 2 ^ 32 + word.toNat * 2 ^ 16 + op.toNat := by
  have h1 := base.isLt; have h2 := len.isLt; have h3 := word.isLt; have h4 := op.isLt
  unfold packCommand
  simp only [BitVec.toNat_or, BitVec.toNat_shiftLeft, BitVec.toNat_setWidth]
  rw [Nat.mod_eq_of_lt (show base.toNat < 2^64 by omega), Nat.mod_eq_of_lt (show len.toNat < 2^64 by omega), Nat.mod_eq_of_lt (show word.toNat < 2^64 by omega), Nat.mod_eq_of_lt (show op.toNat < 2^64 by omega)]
  simp only [Nat.shiftLeft_eq]
  rw [Nat.mod_eq_of_lt (by omega), Nat.mod_eq_of_lt (by omega), Nat.mod_eq_of_lt (by omega)]
  rw [show base.toNat * 2^48 ||| len.toNat * 2^32 = base.toNat * 2^48 + len.toNat * 2^32 from by
    rw [← Nat.shiftLeft_eq, ← Nat.shiftLeft_add_eq_or_of_lt (by omega)]]
  rw [show base.toNat * 2^48 + len.toNat * 2^32 = (base.toNat * 2^16 + len.toNat) <<< 32 by rw [Nat.shiftLeft_eq]; omega,
    ← Nat.shiftLeft_add_eq_or_of_lt (by omega)]
  rw [show (base.toNat * 2^16 + len.toNat) <<< 32 + word.toNat * 2^16 = (base.toNat * 2^32 + len.toNat * 2^16 + word.toNat) <<< 16 by simp only [Nat.shiftLeft_eq]; omega,
    ← Nat.shiftLeft_add_eq_or_of_lt (by omega)]

/-- The operation code of a command is the one it was decoded from. -/
theorem op_decodeFields (op : BitVec 3) (word len base : Half) : (decodeFields op word len base).op = op := by
  obtain ⟨n, rfl⟩ : ∃ n : Fin 8, op = BitVec.ofFin n := ⟨op.toFin, rfl⟩
  fin_cases n <;> rfl

end Sys2Proof
end

