-- ==== Sys2Proof/Tests/Slice0.lean ====
section
/-! SUPPORT. Tests: expected values from 95_test_vectors (the row is named at each test) or from the rule named, none
from a run of the model. Then, for every obligation with hypotheses, a state and operands that meet them. -/

namespace Sys2Proof.Tests
open Sys2Proof Sys2Proof.Machine

/-! ### States -/

/-- Bytes from an address up, as memory cells. -/
def cells : Nat → List Byte → Memory
  | _, [] => []
  | a, b :: bs => (a, b) :: cells (a + 1) bs

/-- The state after reset with bytes written from `a` on, as `.pbuf a:` of 30_encoding R126. -/
def holding (a : Nat) (bs : List Byte) : State := { State.reset with pbuf := cells a bs }

/-- The step answers a next state of which `p` is true. -/
def reaches (o : Host.Outcome State Fault Refusal) (p : State → Bool) : Bool :=
  match o with
  | .next t => p t
  | .fault _ => false
  | .refused _ => false

/-- Bytes of vector H3. -/
def h3 : List Byte := [0x80, 0x60, 0x12, 0x34, 0, 0, 0x56, 0x78, 0xDE, 0xAD, 0xBE, 0xEF]

/-- Bytes of vector H5. -/
def h5 : List Byte := [0x81, 0x60, 0, 1, 0, 0, 0, 2, 0, 0, 0, 3, 0xCA, 0xFE, 0xBA, 0xBE]

/-- Bytes of vector H12: X = 1, one data word. -/
def h12 : List Byte := [0x90, 0, 0, 0, 0, 0, 0, 0, 0, 0, 0, 0, 0x12, 0x34, 0, 1, 0xA1, 0xA2, 0xA3, 0xA4]

/-- A header with X = 1 whose extension block names 16383 words. -/
def longExt : List Byte := [0x90, 0, 0, 0, 0, 0, 0, 0, 0, 0, 0, 0, 0, 0, 0x3F, 0xFF]

/-- Bytes of vector H14: CC = 2, X = 1, two bytes after the CSRC list. -/
def h14 : List Byte := [0x92, 0, 0, 0, 0, 0, 0, 0, 0, 0, 0, 0, 0, 0, 0, 1, 0, 0, 0, 2, 0, 0]

/-- Bytes of program P2. -/
def p2 : List Byte :=
  [0x92, 0xE0, 0, 1, 0, 0, 0, 0x64, 0x11, 0x22, 0x33, 0x44, 0xAA, 0xAA, 0xAA, 0xAA] ++
  [0xBB, 0xBB, 0xBB, 0xBB, 0xBE, 0xDE, 0, 1, 1, 2, 3, 4, 0xFF, 0xFF]

/-- Bytes of vector X1. -/
def x1 : List Byte := [0xBE, 0xDE, 0, 1, 1, 2, 3, 4]

/-- Bytes of vector X8. -/
def x8 : List Byte := [0, 1, 0, 2, 0, 0, 0, 0x0A, 0, 0, 0, 0x0B]

/-- The command of vector H3 accepted, the HOST's turns still to come. -/
def busyH3 (turns : List Turn) : State := { (holding 0 h3).accept 0x0000000C00000000#64 with turns := turns }

/-- The state vector X5 ends in. -/
def doneX5 : State :=
  { holding 0 x1 with
    code := .ok, op := 0b001#3, xp := true, cmd := Latch.ofWord 0x0000000800000001#64,
    results := { Results.noValue with resExtId := some 0xBEDE, resExtLen := some 1, xdata := [0x01020304] } }

/-- An idle machine with 16 bytes of PBUF (vectors T13, T14). -/
def small (turns : List Turn) : State := { State.reset with config := { pbufBytes := 16 }, turns := turns }

/-! ### The checks -/

theorem test_config_no_bytes_refused : ¬ Config.WellFormed { pbufBytes := 0 } := by decide
theorem test_config_too_many_bytes_refused : ¬ Config.WellFormed { pbufBytes := 65537 } := by decide
theorem test_config_bounds_accepted :
    Config.WellFormed { pbufBytes := 1 } ∧ Config.WellFormed Config.standard := by decide
theorem test_canonical_reserved_bits_refused : ¬ Canonical 0x0000000C00000008#64 := by decide
theorem test_canonical_word_of_parse_refused : ¬ Canonical 0x0000000C00010000#64 := by decide
theorem test_canonical_len_of_info_refused : ¬ Canonical 0x00000001C0000002#64 := by decide
theorem test_canonical_base_of_info_refused : ¬ Canonical 0x00010000C0000002#64 := by decide
theorem test_canonical_accepted : Canonical 0x0000000C00000000#64 ∧ Canonical 0x00000000C0000002#64 := by decide

/-! ### Decoding: words written out field by field, BASE, LEN, WORD, RSVD, OP (30_encoding R120, R121) -/

theorem test_decode_parseHeader :
    decode (0b0000000100000001#16 ++ 0b0000000000001100#16 ++ 0b1111111111111111#16 ++ 0b1111111111111#13 ++ 0b000#3)
      = .parseHeader 0x0101 12 := by decide
theorem test_decode_parseExtension :
    decode (0b0000000000010100#16 ++ 0b0000000000001010#16 ++ 0b0000000000000000#16 ++ 0b0000000000000#13 ++ 0b001#3)
      = .parseExtension 20 10 := by decide
theorem test_decode_infoVersion :
    decode (0b1111111111111111#16 ++ 0b1111111111111111#16 ++ 0b1100000000000000#16 ++ 0b0000000000000#13 ++ 0b010#3)
      = .infoVersion 0xC000 := by decide
theorem test_decode_infoPadding :
    decode (0b0000000000000000#16 ++ 0b0000000000000000#16 ++ 0b0010000000000000#16 ++ 0b0000000000000#13 ++ 0b011#3)
      = .infoPadding 0x2000 := by decide
theorem test_decode_infoExtension :
    decode (0b0000000000000000#16 ++ 0b0000000000000000#16 ++ 0b1001000000000000#16 ++ 0b0000000000000#13 ++ 0b100#3)
      = .infoExtension 0x9000 := by decide
theorem test_decode_infoCsrcCount :
    decode (0b0000000000000000#16 ++ 0b0000000000000000#16 ++ 0b0000111100000000#16 ++ 0b0000000000000#13 ++ 0b101#3)
      = .infoCsrcCount 0x0F00 := by decide
theorem test_decode_infoMarker :
    decode (0b0000000000000000#16 ++ 0b0000000000000000#16 ++ 0b0000000011111111#16 ++ 0b0000000000000#13 ++ 0b110#3)
      = .infoMarker 0x00FF := by decide
theorem test_decode_infoPayloadType :
    decode (0b0000000000000000#16 ++ 0b0000000000000000#16 ++ 0b0000000011111111#16 ++ 0b0000000000000#13 ++ 0b111#3)
      = .infoPayloadType 0x00FF := by decide

/-- The words of programs P1 and P4 (95_test_vectors section 3). -/
theorem test_encode_words :
    encode (.parseHeader 0 12) = 0x0000000C00000000#64 ∧ encode (.parseExtension 20 10) = 0x0014000A00000001#64 ∧
    encode (.infoCsrcCount 0x92E0) = 0x0000000092E00005#64 := by decide

/-- 30_encoding R124, R125: every 64-bit word is a command, and nothing longer is. -/
theorem test_decode_table_words :
    decodeTableWord 64 0x0014000A00000001 = some (.parseExtension 20 10) ∧
    decodeTableWord 8 7 = some (.infoPayloadType 0) ∧ decodeTableWord 65 0 = none := by decide

/-! ### One command each -/

/-- P2: CSRC order, extension id, length and data, the payload left alone. -/
theorem test_parseHeader_full_packet :
    reaches (exec (.parseHeader 0 30) (holding 0 p2)) (fun t =>
      t.statusWord == 0x82 && t.regWord 0x01 == some 0x92E0 && t.regWord 0x03 == some 0x64 &&
      t.regWord 0x10 == some 0xAAAAAAAA && t.regWord 0x11 == some 0xBBBBBBBB && t.regWord 0x12 == none &&
      t.regWord 0x05 == some 0xBEDE && t.results.xdata == [0x01020304]) := by decide

/-- H14: the CSRC check wins over the extension checks. -/
theorem test_parseHeader_priority :
    reaches (exec (.parseHeader 0 19) (holding 0 h14)) (fun t =>
      t.statusWord == 0x06 && t.results == Results.noValue) := by decide

/-- X8: two data words in buffer order. -/
theorem test_parseExtension_two_words :
    reaches (exec (.parseExtension 0 12) ((holding 0 x8).accept 0x0000000C00000001#64)) (fun t =>
      t.statusWord == 0x92 && t.xdataWord 0 == some 0x0A && t.xdataWord 1 == some 0x0B && t.xdataWord 2 == none &&
      t.regWord 0x01 == none) := by decide

/-- X4: one byte short. -/
theorem test_parseExtension_one_byte_short :
    reaches (exec (.parseExtension 0 7) ((holding 0 x1).accept 0x0000000700000001#64)) (fun t =>
      t.statusWord == 0x1A && t.results == Results.noValue) := by decide

/-- 95_test_vectors 2.1, rows 0xBFFF and 0x4000. -/
theorem test_infoVersion :
    reaches (exec (.infoVersion 0xBFFF) State.reset) (fun t => t.regWord 0x07 == some 2) ∧
    reaches (exec (.infoVersion 0x4000) State.reset) (fun t => t.regWord 0x07 == some 1) := by decide

/-- Row 0x2000, and the corner case 0xDFFF of R150. -/
theorem test_infoPadding :
    reaches (exec (.infoPadding 0x2000) State.reset) (fun t => t.regWord 0x07 == some 1) ∧
    reaches (exec (.infoPadding 0xDFFF) State.reset) (fun t => t.regWord 0x07 == some 0) := by decide

/-- R151: the bit is extracted and XP stays 0; row 0x2000. -/
theorem test_infoExtension :
    reaches (exec (.infoExtension 0x9000) State.reset) (fun t => t.regWord 0x07 == some 1 && t.xp == false) ∧
    reaches (exec (.infoExtension 0x2000) State.reset) (fun t => t.regWord 0x07 == some 0) := by decide

/-- Rows 0x92E0 and 0x0F00. -/
theorem test_infoCsrcCount :
    reaches (exec (.infoCsrcCount 0x92E0) State.reset) (fun t => t.regWord 0x07 == some 2) ∧
    reaches (exec (.infoCsrcCount 0x0F00) State.reset) (fun t => t.regWord 0x07 == some 15) := by decide

/-- Corner cases of R153. -/
theorem test_infoMarker :
    reaches (exec (.infoMarker 0x007F) State.reset) (fun t => t.regWord 0x07 == some 0) ∧
    reaches (exec (.infoMarker 0x0080) State.reset) (fun t => t.regWord 0x07 == some 1) := by decide

/-- S8, and row 0x8060. -/
theorem test_infoPayloadType :
    reaches (exec (.infoPayloadType 0x00FF) State.reset) (fun t => t.regWord 0x07 == some 127) ∧
    reaches (exec (.infoPayloadType 0x8060) State.reset) (fun t => t.regWord 0x07 == some 96) := by decide

/-! ### One step of the HOST or the PARSER each -/

/-- T5: STATUS while PARSE_HEADER runs. -/
theorem test_status_while_busy :
    reaches (step (busyH3 [.readReg 0x00])) (fun t => t.regRdata == some 1 && t.faults == FaultSet.empty) := by decide

/-- T6: a result word read while BUSY = 1. -/
theorem test_read_while_busy :
    reaches (step (busyH3 [.readReg 0x01])) (fun t => t.regRdata == none && t.faults.readNoValue) := by decide

/-- T7: a command offered while BUSY = 1 stays offered, and the PARSER moves. -/
theorem test_issue_while_busy :
    reaches (step (busyH3 [.issue 0x0000000080600006#64])) (fun t =>
      t.statusWord == 2 && t.turns == [.issue 0x0000000080600006#64]) := by decide

/-- T3: the reserved indices read 0. -/
theorem test_reserved_registers_read_zero :
    ∀ n ∈ [0x08#8, 0x0F#8, 0x1F#8, 0x80#8, 0xFF#8],
      reaches (step { doneX5 with turns := [.readReg n] }) (fun t =>
        t.regRdata == some 0 && t.faults == FaultSet.empty) := by decide

/-- T4: XDATA indices 16382 and 16383 read 0. -/
theorem test_reserved_xdata_reads_zero :
    reaches (step { doneX5 with turns := [.readXdata 16382] }) (fun t =>
      t.xdRdata == some 0 && t.faults == FaultSet.empty) ∧
    reaches (step { doneX5 with turns := [.readXdata 16383] }) (fun t =>
      t.xdRdata == some 0 && t.faults == FaultSet.empty) := by decide

/-- As T9: the word after the last data word holds no value. -/
theorem test_xdata_past_the_data :
    reaches (step { doneX5 with turns := [.readXdata 1] }) (fun t => t.xdRdata == none && t.faults.readNoValue) := by
  decide

/-- T13, T14: HOST_RANGE at the accept exactly when the buffer runs past PBUF. -/
theorem test_host_range :
    reaches (step (small [.issue 0x0008000C00000000#64])) (fun t => t.faults.hostRange) ∧
    reaches (step (small [.issue 0x0004000C00000000#64])) (fun t => t.faults == FaultSet.empty) := by decide

/-- I1: INFO_* commands are not range-checked. -/
theorem test_info_not_range_checked :
    reaches (step (small [.issue 0xFFFFFFFFC0000002#64])) (fun t => t.faults == FaultSet.empty) := by decide

/-- T15, T16: PBUF_HAZARD exactly inside the buffer. -/
theorem test_pbuf_hazard :
    reaches (step (busyH3 [.writePbuf 5 0])) (fun t => t.faults.pbufHazard) ∧
    reaches (step (busyH3 [.writePbuf 12 0])) (fun t => t.faults == FaultSet.empty && t.byteAt 12 == 0) := by decide

/-- T17: RESET during a command. -/
theorem test_reset_while_busy :
    reaches (step (busyH3 [.reset])) (fun t =>
      t.statusWord == 0 && t.results == Results.noValue && t.byteAt 8 == 0xDE) := by decide

/-- T18: RESET leaves FAULT. -/
theorem test_reset_keeps_fault :
    reaches (step { (small []).accept 0x0008000C00000000#64 with turns := [.reset] }) (fun t => t.faults.hostRange) := by
  decide

/-- H3 as the first command after reset, and the fault of a write outside PBUF. -/
theorem test_fetched_word_runs :
    reaches (step ((holding 0 h3).withFetchWord 64 0x0000000C00000000)) (fun t =>
      t.statusWord == 2 && t.regWord 0x02 == some 0x1234) := by decide
theorem test_write_outside_pbuf : step (small [.writePbuf 16 0]) = .fault (.noSuchPbufAddress 16) := rfl

/-! ### Witnesses: what the hypotheses of each obligation are met by -/

/-- The invariant holds in a busy state that is not the reset state. -/
theorem inv_busyH3 (turns : List Turn) : Inv (busyH3 turns) where
  config := show Config.standard.WellFormed by decide
  pbuf := show Memory.wf (cells 0 h3) by decide
  pbufRange := show ∀ c ∈ cells 0 h3, c.1 < 65536 by decide
  opLatch := rfl
  xdata := Nat.zero_le _
  running _ := ⟨rfl, rfl, rfl⟩
  hazardNoted h := by cases h
  rangeNoted _ h :=
    absurd (show rangeBroken Config.standard (Latch.ofWord 0x0000000C00000000#64) = true from h) (by decide)
  shape _ := {
    notOk := fun _ => ⟨rfl, rfl⟩
    headerError := fun h => by rcases h with h | h <;> cases h
    extError := fun h => by rcases h with h | h <;> cases h
    header := fun h => by cases h
    ext := fun h => by cases h
    field := fun h => by cases h }

/-- The invariant holds in the state vector X5 ends in. -/
theorem inv_doneX5 : Inv doneX5 where
  config := by decide
  pbuf := by decide
  pbufRange := by decide
  opLatch := rfl
  xdata := by decide
  running h := by cases h
  hazardNoted h := by cases h
  rangeNoted h := by cases h
  shape _ := {
    notOk := fun h => absurd rfl h
    headerError := fun h => by rcases h with h | h <;> cases h
    extError := fun h => by rcases h with h | h <;> cases h
    header := fun _ h => absurd h (by decide)
    ext := fun _ _ => ⟨rfl, ⟨rfl, 1, rfl, rfl⟩, rfl⟩
    field := fun _ _ h => absurd rfl h }

/-- The turns to come are no part of the invariant. -/
theorem inv_afterTurn {s : State} (h : Inv s) (r : List Turn) : Inv (s.afterTurn r) where
  config := h.config
  pbuf := h.pbuf
  pbufRange := h.pbufRange
  opLatch := h.opLatch
  xdata := h.xdata
  running := h.running
  hazardNoted := h.hazardNoted
  rangeNoted := h.rangeNoted
  shape hf := { h.shape hf with }

theorem witness_OpSelectsTheCommand :
    ∀ n : Fin 8, (encode (decodeFields (BitVec.ofNat 3 n) 0 0xFFFF 0xFFFF)).toNat % 8 = n := by decide

theorem witness_ReservedBitsChangeNothing :
    (0x0000000C00000000#64).toNat % 8 = (0x0000000C0000FFF8#64).toNat % 8 ∧
    (0x0000000C00000000#64).toNat / 2 ^ 16 = (0x0000000C0000FFF8#64).toNat / 2 ^ 16 ∧ State.reset.busy = false := by
  decide

theorem witness_IgnoredOperandsHaveNoEffect :
    decode 0xFFFFFFFFC0000002#64 = decode 0x00000000C000FFFA#64 := by decide

theorem witness_InfoFieldsPartitionTheWord :
    (0x92E0#16 : Half) = 2#2 ++ 0#1 ++ 1#1 ++ 2#4 ++ 1#1 ++ 96#7 := by decide

/-- Each clause at both ends: n = 3; n = 4 and 7 with ehl = 1; n = 8 with ehl = 1 and n = 4 with ehl = 0. -/
theorem witness_ParseExtensionDecodesTheBlock :
    (holding 0 x1).hazard = false ∧ (0#16).toNat + (8#16).toNat ≤ (holding 0 x1).config.pbufBytes ∧
    (3#16).toNat < 4 ∧
    (4 ≤ (4#16).toNat ∧ (4#16).toNat - 4 < 4 * (be16 (holding 0 x1).byteAt ((0#16).toNat + 2)).toNat) ∧
    (4 ≤ (7#16).toNat ∧ (7#16).toNat - 4 < 4 * (be16 (holding 0 x1).byteAt ((0#16).toNat + 2)).toNat) ∧
    (4 ≤ (8#16).toNat ∧ 4 * (be16 (holding 0 x1).byteAt ((0#16).toNat + 2)).toNat ≤ (8#16).toNat - 4) ∧
    (4 ≤ (4#16).toNat ∧ 4 * (be16 (holding 0 [0, 7, 0, 0]).byteAt ((0#16).toNat + 2)).toNat ≤ (4#16).toNat - 4) := by
  decide

theorem witness_ShortBufferIsHeaderTooSmall :
    State.reset.hazard = false ∧ (65525#16).toNat + (11#16).toNat ≤ State.reset.config.pbufBytes ∧
    (11#16).toNat < 12 := by decide

/-- The first clause at L = 12 and L = 15; the second on the state the step answers. -/
theorem witness_MissingCsrcWordsAreInsufficientCsrcData :
    (holding 0 h5).hazard = false ∧ (0#16).toNat + (15#16).toNat ≤ (holding 0 h5).config.pbufBytes ∧
    (12 ≤ (12#16).toNat ∧ (12#16).toNat - 12 < 4 * (csrcCount (be16 (holding 0 h5).byteAt (0#16).toNat)).toNat) ∧
    (12 ≤ (15#16).toNat ∧ (15#16).toNat - 12 < 4 * (csrcCount (be16 (holding 0 h5).byteAt (0#16).toNat)).toNat) ∧
    ∃ t, exec (.parseHeader 0 15) (holding 0 h5) = .next t ∧ t.code = .error .insufficientCsrcData :=
  ⟨by decide, by decide, by decide, by decide, _, rfl, by decide⟩

/-- H9, H10, H12 and X2, X4: e = 12, ehl = 1. -/
theorem witness_ShortExtensionsAreReported :
    (holding 0 h12).hazard = false ∧ (0#16).toNat + (19#16).toNat ≤ (holding 0 h12).config.pbufBytes ∧
    extension (be16 (holding 0 h12).byteAt (0#16).toNat) = 1#1 ∧
    12 + 4 * (csrcCount (be16 (holding 0 h12).byteAt (0#16).toNat)).toNat = 12 ∧
    (12 ≤ (12#16).toNat ∧ (12#16).toNat - 12 < 4) ∧ (12 ≤ (15#16).toNat ∧ (15#16).toNat - 12 < 4) ∧
    (4 ≤ (16#16).toNat - 12 ∧
      (16#16).toNat - 12 - 4 < 4 * (be16 (holding 0 h12).byteAt ((0#16).toNat + 12 + 2)).toNat) ∧
    (4 ≤ (19#16).toNat - 12 ∧
      (19#16).toNat - 12 - 4 < 4 * (be16 (holding 0 h12).byteAt ((0#16).toNat + 12 + 2)).toNat) ∧
    (3#16).toNat < 4 ∧
    (4 ≤ (7#16).toNat ∧ (7#16).toNat - 4 < 4 * (be16 (holding 0 x1).byteAt ((0#16).toNat + 2)).toNat) := by
  decide

theorem witness_FirstFailingCheckIsReported :
    (holding 0 h14).hazard = false ∧ (0#16).toNat + (22#16).toNat ≤ (holding 0 h14).config.pbufBytes ∧
    2 ≤ (Instr.infoVersion 0).op.toNat ∧ 2 ≤ (Instr.infoPayloadType 0).op.toNat := by decide

/-- H3 (X = 0, L = 12) and H13 (X = 1, L = 20), each at the shortest length its header fits in. -/
theorem witness_ParseHeaderCommitsTheHeader :
    (holding 0 h3).hazard = false ∧ (0#16).toNat + (20#16).toNat ≤ (holding 0 h3).config.pbufBytes ∧
    (12 + 4 * (csrcCount (be16 (holding 0 h3).byteAt 0)).toNat ≤ (12#16).toNat ∧
      extension (be16 (holding 0 h3).byteAt 0) ≠ 1#1) ∧
    (12 + 4 * (csrcCount (be16 (holding 0 h12).byteAt 0)).toNat ≤ (20#16).toNat ∧
      extension (be16 (holding 0 h12).byteAt 0) = 1#1 ∧
      16 + 4 * (csrcCount (be16 (holding 0 h12).byteAt 0)).toNat +
        4 * (be16 (holding 0 h12).byteAt (12 + 2)).toNat ≤ (20#16).toNat) := by decide

theorem witness_ParseErrorsWriteOnlyStatus :
    ∃ t, (holding 0 h5).hazard = false ∧ (0#16).toNat + (15#16).toNat ≤ (holding 0 h5).config.pbufBytes ∧
      exec (.parseHeader 0 15) (holding 0 h5) = .next t ∧ t.code = .error .insufficientCsrcData :=
  ⟨_, by decide, by decide, rfl, by decide⟩

/-- The rest of the buffer begins at 65535, the last address there is, and at 65536, which is none. -/
theorem witness_ExtensionErrorsPropagateUnchanged :
    (holding 65524 h12).hazard = false ∧ (holding 65524 h12).config.pbufBytes ≤ 65536 ∧
    ((65524#16).toNat + (12#16).toNat ≤ (holding 65524 h12).config.pbufBytes ∧
      extension (be16 (holding 65524 h12).byteAt (65524#16).toNat) = 1#1 ∧
      12 + 4 * (csrcCount (be16 (holding 65524 h12).byteAt (65524#16).toNat)).toNat ≤ (12#16).toNat ∧
      (65524#16).toNat + (12 + 4 * (csrcCount (be16 (holding 65524 h12).byteAt (65524#16).toNat)).toNat) = 65536) ∧
    ((65523#16).toNat + (13#16).toNat ≤ (holding 65523 h12).config.pbufBytes ∧
      extension (be16 (holding 65523 h12).byteAt (65523#16).toNat) = 1#1 ∧
      12 + 4 * (csrcCount (be16 (holding 65523 h12).byteAt (65523#16).toNat)).toNat ≤ (13#16).toNat ∧
      (65523#16).toNat + (12 + 4 * (csrcCount (be16 (holding 65523 h12).byteAt (65523#16).toNat)).toNat) < 65536) := by
  decide

/-- Two states that differ outside the buffer and in their results. -/
theorem witness_ParseOutcomeDependsOnlyOnItsBuffer :
    (holding 0 x1).hazard = false ∧ doneX5.hazard = false ∧ (0#16).toNat + (7#16).toNat ≤ doneX5.config.pbufBytes ∧
    (∀ k < (7#16).toNat, (holding 0 (x1.take 7)).byteAt ((0#16).toNat + k) = doneX5.byteAt ((0#16).toNat + k)) ∧
    holding 0 (x1.take 7) ≠ doneX5 := by decide

/-- H4 beside H3, P2 beside its shortest form, and X5 with a longer buffer. -/
theorem witness_TrailingBytesAreIgnored :
    (∃ t, exec (.parseHeader 0 20) (holding 0 h3) = .next t ∧ t.code = .ok ∧ t.xp = false ∧
      12 + 4 * (csrcCount (be16 (holding 0 h3).byteAt 0)).toNat ≤ (12#16).toNat) ∧
    (∃ t, exec (.parseHeader 0 30) (holding 0 p2) = .next t ∧ t.code = .ok ∧ t.xp = true ∧
      12 + 4 * (csrcCount (be16 (holding 0 p2).byteAt 0)).toNat + 4 + 4 * t.results.xdata.length ≤ (28#16).toNat) ∧
    ∃ t, exec (.parseExtension 0 9) (holding 0 x1) = .next t ∧ t.code = .ok ∧
      4 + 4 * t.results.xdata.length ≤ (8#16).toNat :=
  ⟨⟨_, rfl, by decide, by decide, by decide⟩, ⟨_, rfl, by decide, by decide, by decide⟩,
    ⟨_, rfl, by decide, by decide⟩⟩

/-- P2, X5, and an extension block that names 16383 words, alone (L = 4) and after a header (L = 16). -/
theorem witness_DecodedHeadersFitTheirBuffer :
    (∃ t, exec (.parseHeader 0 30) (holding 0 p2) = .next t ∧ t.code = .ok) ∧
    (∃ t, exec (.parseExtension 0 8) (holding 0 x1) = .next t ∧ t.code = .ok) ∧
    (∃ t, exec (.parseExtension 0 4) (holding 0 [0, 0, 0x3F, 0xFF]) = .next t ∧ 4 ≤ (4#16).toNat ∧
      16382 < (be16 (holding 0 [0, 0, 0x3F, 0xFF]).byteAt ((0#16).toNat + 2)).toNat) ∧
    ∃ t, exec (.parseHeader 0 16) (holding 0 longExt) = .next t ∧
      extension (be16 (holding 0 longExt).byteAt (0#16).toNat) = 1#1 ∧
      12 + 4 * (csrcCount (be16 (holding 0 longExt).byteAt (0#16).toNat)).toNat + 4 ≤ (16#16).toNat ∧
      16382 < (be16 (holding 0 longExt).byteAt
        ((0#16).toNat + (12 + 4 * (csrcCount (be16 (holding 0 longExt).byteAt (0#16).toNat)).toNat) + 2)).toNat :=
  ⟨⟨_, rfl, by decide⟩, ⟨_, rfl, by decide⟩, ⟨_, rfl, by decide, by decide⟩, ⟨_, rfl, by decide, by decide, by decide⟩⟩

/-- The header of program P2 as fields. -/
def headerP2 : WireHeader :=
  { version := 2, padding := 0, marker := 1, payloadType := 96, seq := 1, ts := 0x64, ssrc := 0x11223344,
    csrc := [0xAAAAAAAA, 0xBBBBBBBB], ext := some (0xBEDE, [0x01020304]) }

theorem test_headerP2_bytes : headerP2.bytes = p2.take 28 := by decide

theorem witness_WrittenHeaderParsesBack :
    headerP2.WellFormed ∧ (holding 0x0101 p2).hazard = false ∧
    (0x0101#16).toNat + (28#16).toNat ≤ (holding 0x0101 p2).config.pbufBytes ∧
    headerP2.bytes.length ≤ (28#16).toNat ∧
    ∀ k (hk : k < headerP2.bytes.length), (holding 0x0101 p2).byteAt ((0x0101#16).toNat + k) = headerP2.bytes[k] := by
  refine ⟨⟨by decide, ?_⟩, by decide, by decide, by decide, by decide⟩
  rintro x ⟨⟩
  decide

/-- T15 (the running command's buffer written) and T13 (the buffer past PBUF). -/
theorem witness_UnspecifiedParseStillCompletes :
    ({ busyH3 [] with hazard := true } : State).hazard = true ∧
    (small []).config.pbufBytes < (8#16).toNat + (12#16).toNat := by decide

/-- The accept with the buffer one byte past PBUF, at its end, and of an INFO_* command. -/
theorem witness_IssueLatchesTheCommand :
    ∀ c ∈ [0x0005000C00000000#64, 0x0004000C00000000#64, 0xFFFFFFFFC0000002#64],
      (small [.issue c]).busy = false ∧ (small [.issue c]).turns = .issue c :: [] :=
  fun _ _ => ⟨rfl, rfl⟩

theorem witness_IssueWhileBusyIsHeld :
    (busyH3 [.issue 1#64]).busy = true ∧ (busyH3 [.issue 1#64]).turns = .issue 1#64 :: [] := ⟨rfl, rfl⟩

/-- Inside the running buffer, just past it, and at the last address. -/
theorem witness_WritePbufWritesOneByte :
    ∀ a ∈ [0#16, 11#16, 12#16, 65535#16],
      (busyH3 [.writePbuf a 0]).turns = .writePbuf a 0 :: [] ∧
      a.toNat < (busyH3 [.writePbuf a 0]).config.pbufBytes :=
  fun a _ => ⟨rfl, a.isLt⟩

theorem witness_WriteOutsidePbufStops :
    (small [.writePbuf 16 0]).turns = .writePbuf 16 0 :: [] ∧
    (small [.writePbuf 16 0]).config.pbufBytes ≤ (16#16).toNat := ⟨rfl, by decide⟩

/-- Every clause at both ends of its range: STATUS, the named words, CSRC[0], CSRC[14], the reserved indices. -/
theorem witness_ReadRegReturnsTheWord :
    (∀ n ∈ [0x00#8, 0x01#8, 0x07#8, 0x08#8, 0x0F#8, 0x10#8, 0x1E#8, 0x1F#8, 0xFF#8],
      (busyH3 [.readReg n]).turns = .readReg n :: []) ∧
    (0x10#8).toNat = 0x10 + (0 : Fin csrcMax).val ∧ (0x1E#8).toNat = 0x10 + (14 : Fin csrcMax).val ∧
    (0x08 ≤ (0x08#8).toNat ∧ (0x0F#8).toNat ≤ 0x0F ∧ 0x1F ≤ (0x1F#8).toNat ∧ 0x1F ≤ (0xFF#8).toNat) :=
  ⟨fun _ _ => rfl, by decide⟩

theorem witness_ReadXdataReturnsTheWord :
    (∀ j ∈ [0#14, 16381#14, 16382#14, 16383#14], (busyH3 [.readXdata j]).turns = .readXdata j :: []) ∧
    (16381#14).toNat < 16382 ∧ 16382 ≤ (16382#14).toNat :=
  ⟨fun _ _ => rfl, by decide, by decide⟩

theorem witness_ReadsAreRepeatable :
    ∃ t, (busyH3 [.readReg 1]).turns = .readReg 1 :: [] ∧ (Turn.readReg 1).IsAccess ∧
      step (busyH3 [.readReg 1]) = .next t :=
  ⟨_, rfl, trivial, rfl⟩

theorem witness_ResetTakesTheResetValues : (busyH3 [.reset]).turns = .reset :: [] := rfl

/-- The three clauses: the PARSER's turn, no turn left, and an accept before the PARSER's turn. -/
theorem witness_StepRunsTheLatchedCommand :
    ((busyH3 [.parser]).busy = true ∧ (busyH3 [.parser]).turns = .parser :: []) ∧
    ((busyH3 []).busy = true ∧ (busyH3 []).turns = []) ∧
    ((small [.issue 2#64, .parser]).busy = false ∧ (small [.issue 2#64, .parser]).turns = .issue 2#64 :: .parser :: []) :=
  ⟨⟨rfl, rfl⟩, ⟨rfl, rfl⟩, ⟨rfl, rfl⟩⟩

theorem witness_FetchedWordRunsNext : decodeTableWord 64 0x0014000A00000001 = some (.parseExtension 20 10) := by decide

theorem witness_FaultsAreSticky :
    ∃ t, step { (small []).accept 0x0008000C00000000#64 with turns := [.reset] } = .next t ∧ t.faults.hostRange = true :=
  ⟨_, rfl, by decide⟩

theorem witness_BlockNeverWritesPbuf :
    ∃ t, step (busyH3 []) = .next t ∧ ∀ a v rest, (busyH3 []).turns ≠ .writePbuf a v :: rest :=
  ⟨_, rfl, fun _ _ _ h => by cases h⟩

/-- A completion, an accept and a reset, each of which changes STATUS. -/
theorem witness_OnlyCompletionAcceptAndResetChangeResults :
    ∀ s ∈ [busyH3 [], small [.issue 2#64], { doneX5 with turns := [.reset] }],
      reaches (step s) (fun t => t.busy != s.busy || t.code != s.code || t.results != s.results) := by decide

theorem witness_StepKeepsTheInvariant : ∃ t, Inv (busyH3 [.readReg 1]) ∧ step (busyH3 [.readReg 1]) = .next t :=
  ⟨_, inv_busyH3 _, rfl⟩

theorem witness_ResultsHoldNoValueWhileBusy : Inv (busyH3 []) ∧ (busyH3 []).busy = true := ⟨inv_busyH3 _, rfl⟩

theorem witness_InfoCommandLosesEarlierResults :
    (∀ c : CommandWord, ({ doneX5 with turns := [.issue c, .parser] } : State).busy = false ∧
      ({ doneX5 with turns := [.issue c, .parser] } : State).turns = .issue c :: .parser :: []) ∧
    2 ≤ (0xFFFFFFFFC0000002#64).toNat % 8 ∧ 2 ≤ (0x0000000080600007#64).toNat % 8 :=
  ⟨fun _ => ⟨rfl, rfl⟩, by decide, by decide⟩

/-- Both sides of the equivalence: X5 done (XP = 1), and a command running (XP = 0). -/
theorem witness_XpMeansAnExtensionWasDecoded :
    (Inv doneX5 ∧ doneX5.FaultFree ∧ doneX5.xp = true) ∧
    (Inv (busyH3 []) ∧ (busyH3 []).FaultFree ∧ (busyH3 []).xp = false) :=
  ⟨⟨inv_doneX5, rfl, rfl⟩, ⟨inv_busyH3 _, by decide, rfl⟩⟩

/-- The state after an error and the state after a success, each with the same turns. -/
theorem witness_AcceptForgetsTheLastOutcome :
    ∃ s u : State, s ≠ u ∧ s.busy = false ∧ s.turns = .issue 2#64 :: [] ∧
      u = { s with code := u.code, op := u.op, xp := u.xp, results := u.results, cmd := u.cmd, hazard := u.hazard } :=
  ⟨{ doneX5 with turns := [.issue 2#64] },
    { doneX5 with turns := [.issue 2#64], code := .error .headerTooSmall, xp := false, results := Results.noValue },
    by decide, rfl, rfl, rfl⟩

theorem witness_BusyBlockBecomesIdle :
    (busyH3 [.writePbuf 12 0]).busy = true ∧
    ∀ a v, .writePbuf a v ∈ (busyH3 [.writePbuf 12 0]).turns → a.toNat < (busyH3 [.writePbuf 12 0]).config.pbufBytes :=
  ⟨rfl, fun a _ _ => a.isLt⟩

/-- Two accesses while a command runs: a write just past its buffer and a read of STATUS. -/
theorem witness_CommandSeesItsBufferAsAtAccept :
    ∃ t, Inv (busyH3 [.writePbuf 12 0, .readReg 0, .parser]) ∧
      (busyH3 [.writePbuf 12 0, .readReg 0, .parser]).busy = true ∧
      (busyH3 [.writePbuf 12 0, .readReg 0, .parser]).turns = [.writePbuf 12 0, .readReg 0] ++ [.parser] ∧
      (∀ x ∈ ([.writePbuf 12 0, .readReg 0] : List Turn), x.IsAccess) ∧
      Sys2Proof.core.run 2 (busyH3 [.writePbuf 12 0, .readReg 0, .parser]) = .next t ∧ State.FaultFree t :=
  ⟨_, inv_busyH3 _, rfl, rfl, by simp [Turn.IsAccess], rfl, by decide⟩

theorem witness_BufferIsFreeAtCompletion :
    ({ doneX5 with turns := [.writePbuf 4 0] } : State).busy = false ∧
    ({ doneX5 with turns := [.writePbuf 4 0] } : State).turns = .writePbuf 4 0 :: [] ∧
    (4#16).toNat < ({ doneX5 with turns := [.writePbuf 4 0] } : State).config.pbufBytes :=
  ⟨rfl, rfl, by decide⟩

theorem witness_EndedRunStays : doneX5.busy = false ∧ doneX5.turns = [] := ⟨rfl, rfl⟩

/-- The state vector X5 ends in, the HOST's reads and writes and a RESET still to come: the run has ended. -/
theorem endsX5 : ({ doneX5 with turns := [.readReg 5, .readXdata 0, .writePbuf 4 0, .reset] } : State).GoodEnd :=
  ⟨⟨rfl, fun _ => by simp⟩, rfl⟩

/-- A read, and a RESET, each the next turn of a run that has ended. -/
theorem witness_EndedRunStaysEnded :
    (∃ t, ({ doneX5 with turns := [.readReg 5, .reset] } : State).RunEnded ∧
      step { doneX5 with turns := [.readReg 5, .reset] } = .next t ∧
      ∀ rest, ({ doneX5 with turns := [.readReg 5, .reset] } : State).turns ≠ .reset :: rest) ∧
    ∃ t, ({ doneX5 with turns := [.reset] } : State).RunEnded ∧ step { doneX5 with turns := [.reset] } = .next t :=
  ⟨⟨_, ⟨rfl, fun _ => by simp⟩, rfl, nofun⟩, _, ⟨rfl, fun _ => by simp⟩, rfl⟩

/-- 70 R278 asks for an idle block with no command left: a running one, and one with a command left, have not ended. -/
theorem test_not_ended : (¬ (busyH3 []).RunEnded) ∧ ¬ (small [.readReg 0, .issue 2#64]).RunEnded :=
  ⟨fun h => (nomatch h.1), fun h => h.2 2#64 (by simp [small])⟩

/-- P2, X5, H5 and T12: the words 10_state R46 names, and what is read of them. -/
theorem test_observation :
    reaches (exec (.parseHeader 0 30) (holding 0 p2)) (fun t =>
      t.namedRegs == [0x01#8, 0x02#8, 0x03#8, 0x04#8, 0x10#8, 0x11#8, 0x05#8, 0x06#8] && t.namedXdata == 1) ∧
    doneX5.observation = { status := 0x92, regs := [(0x05#8, some 0xBEDE), (0x06#8, some 1)], xdata := [some 0x01020304] } ∧
    reaches (exec (.parseHeader 0 15) (holding 0 h5)) (fun t =>
      t.observation == { status := 0x06, regs := [], xdata := [] }) ∧
    reaches (exec (.infoMarker 0x8060) (doneX5.accept 0x0000000080600006#64)) (fun t =>
      t.observation == { status := 0x62, regs := [(0x07#8, some 0)], xdata := [] }) := by decide

/-- The first and the last index of each range. -/
theorem witness_EndedRunHoldsTheNamedWords :
    Inv doneX5 ∧ doneX5.GoodEnd ∧
    (∀ n ∈ [0x01#8, 0x07#8, 0x10#8, 0x1E#8], (1 ≤ n.toNat ∧ n.toNat ≤ 7) ∨ (0x10 ≤ n.toNat ∧ n.toNat ≤ 0x1E)) ∧
    (16381#14).toNat < 16382 :=
  ⟨inv_doneX5, ⟨⟨rfl, nofun⟩, rfl⟩, by decide, by decide⟩

/-- A read of STATUS, of RES_EXT_LEN and of the one data word. -/
theorem witness_EndedRunCanBeObserved :
    (Inv { doneX5 with turns := [.readReg 6] } ∧ ({ doneX5 with turns := [.readReg 6] } : State).GoodEnd ∧
      0x06#8 ∈ ({ doneX5 with turns := [.readReg 6] } : State).namedRegs) ∧
    (Inv { doneX5 with turns := [.readReg 0] } ∧ ({ doneX5 with turns := [.readReg 0] } : State).GoodEnd) ∧
    (Inv { doneX5 with turns := [.readXdata 0] } ∧ ({ doneX5 with turns := [.readXdata 0] } : State).GoodEnd ∧
      (0#14).toNat < ({ doneX5 with turns := [.readXdata 0] } : State).namedXdata) :=
  ⟨⟨inv_afterTurn inv_doneX5 _, ⟨⟨rfl, fun _ => by simp⟩, rfl⟩, by decide⟩, ⟨inv_afterTurn inv_doneX5 _, ⟨⟨rfl, fun _ => by simp⟩, rfl⟩⟩,
    ⟨inv_afterTurn inv_doneX5 _, ⟨⟨rfl, fun _ => by simp⟩, rfl⟩, by decide⟩⟩

theorem witness_PinsFollowBusy :
    (busyH3 [.issue 2#64]).turns = .issue 2#64 :: [] ∧ (small [.issue 2#64]).turns = .issue 2#64 :: [] :=
  ⟨rfl, rfl⟩

end Sys2Proof.Tests
end

section
/-! The big-endian reads as sums of byte weights (00_scope R13, 20_memory R87). -/

namespace Sys2Proof.Machine

/-- Appending a byte moves the bits before it up by one byte's weight. -/
theorem toNat_append_byte {n : Nat} (x : BitVec n) (y : Byte) : (x ++ y).toNat = x.toNat * 2 ^ 8 + y.toNat := by
  rw [BitVec.toNat_append, ← Nat.shiftLeft_add_eq_or_of_lt y.isLt, Nat.shiftLeft_eq]

theorem be16_toNat_eq_sum (rd : Nat → Byte) (a : Nat) :
    (be16 rd a).toNat = (rd a).toNat * 2 ^ 8 + (rd (a + 1)).toNat :=
  toNat_append_byte _ _

theorem be32_toNat_eq_sum (rd : Nat → Byte) (a : Nat) :
    (be32 rd a).toNat = (rd a).toNat * 2 ^ 24 + (rd (a + 1)).toNat * 2 ^ 16 + (rd (a + 2)).toNat * 2 ^ 8 +
      (rd (a + 3)).toNat := by
  simp only [be32, toNat_append_byte]
  omega

end Sys2Proof.Machine

namespace Sys2Proof

/-- Settles O11: each byte appended gives those before it one more factor 2^8. -/
theorem bigEndianReads : Obligations.BigEndianReads := by
  intro rd a
  exact ⟨Machine.be16_toNat_eq_sum rd a, Machine.be32_toNat_eq_sum rd a⟩

end Sys2Proof
end

section
/-! What a command completes with, as a value: the outcome its rule gives on the bytes of PBUF, and when the spec gives
one (10_state R52, 20_memory R81, 70 R270). The meaning of every command is a completion with it, so claims about
completions are claims about `outcomeOf`. -/

namespace Sys2Proof.Machine

/-- The outcome the rule of a command gives, with PBUF read through `rd` (41_header_parse R185, 42_extension_parse R210,
40_info_extract R149 to R154). -/
def outcomeOf (rd : Nat → Byte) : Instr → Completion
  | .parseHeader base len => Completion.ofHeader (headerDecode rd base.toNat len.toNat)
  | .parseExtension base len => Completion.ofExt (extDecode rd base.toNat len.toNat)
  | .infoVersion word => Completion.field ((version word).setWidth 7)
  | .infoPadding word => Completion.field ((padding word).setWidth 7)
  | .infoExtension word => Completion.field ((extension word).setWidth 7)
  | .infoCsrcCount word => Completion.field ((csrcCount word).setWidth 7)
  | .infoMarker word => Completion.field ((marker word).setWidth 7)
  | .infoPayloadType word => Completion.field (payloadType word)

/-- The spec gives the result of this command in this state: a parse command's operands are specified. -/
def State.specifiedFor (s : State) : Instr → Bool
  | .parseHeader base len | .parseExtension base len => s.specified base len
  | _ => true

/-- A command whose result the spec gives completes with the outcome of its rule. -/
theorem exec_of_specifiedFor {i : Instr} {s : State} (h : s.specifiedFor i = true) :
    exec i s = .next (s.complete (outcomeOf s.byteAt i)) := by
  cases i with
  | parseHeader base len =>
    exact congrArg Host.Outcome.next (completeParse_of_specified h _)
  | parseExtension base len =>
    exact congrArg Host.Outcome.next (completeParse_of_specified h _)
  | _ => rfl

/-- Any other command completes with a free outcome (log 3). -/
theorem exec_of_not_specifiedFor {i : Instr} {s : State} (h : s.specifiedFor i = false) :
    exec i s = .next ((s.complete (Completion.free s.freeCount)).withFreeCount (s.freeCount + 1)) := by
  cases i with
  | parseHeader base len | parseExtension base len =>
    have hs : s.specified base len = false := h
    simp [exec, execParseHeader, execParseExtension, State.completeParse, hs]
  | _ => cases h

/-- Every command completes from every state (70 R277). -/
theorem exec_next (i : Instr) (s : State) : ∃ d k, exec i s = .next ((s.complete d).withFreeCount k) := by
  cases hs : s.specifiedFor i with
  | true => exact ⟨_, s.freeCount, exec_of_specifiedFor hs⟩
  | false => exact ⟨_, _, exec_of_not_specifiedFor hs⟩

/-! ### Errors -/

theorem ofHeader_eq_failed {r : Except ParseError HeaderBlock} {e : ParseError}
    (h : (Completion.ofHeader r).code = .error e) : Completion.ofHeader r = Completion.failed e := by
  cases r with
  | error d => cases h; rfl
  | ok x => cases h

theorem ofExt_eq_failed {r : Except ParseError ExtBlock} {e : ParseError}
    (h : (Completion.ofExt r).code = .error e) : Completion.ofExt r = Completion.failed e := by
  cases r with
  | error d => cases h; rfl
  | ok x => cases h

/-- An outcome whose code is an error is the error outcome of 10_state R47. -/
theorem outcomeOf_eq_failed {rd : Nat → Byte} {i : Instr} {e : ParseError}
    (h : (outcomeOf rd i).code = .error e) : outcomeOf rd i = Completion.failed e := by
  cases i with
  | parseHeader base len => exact ofHeader_eq_failed h
  | parseExtension base len => exact ofExt_eq_failed h
  | _ => cases h

/-! ### What the outcome depends on -/

/-- The outcome depends on the bytes of the command's buffer alone (20_memory R82). -/
theorem outcomeOf_congr {rd rd' : Nat → Byte} {i : Instr}
    (h : ∀ base len, i = .parseHeader base len ∨ i = .parseExtension base len →
      ∀ k < len.toNat, rd (base.toNat + k) = rd' (base.toNat + k)) :
    outcomeOf rd i = outcomeOf rd' i := by
  cases i with
  | parseHeader base len => exact congrArg Completion.ofHeader (headerDecode_congr (h base len (.inl rfl)))
  | parseExtension base len => exact congrArg Completion.ofExt (extDecode_congr (h base len (.inr rfl)))
  | _ => rfl

/-! ### XDATA never overflows (10_state R44) -/

/-- What a decoded header block says of its own parts (41_header_parse R179 to R182). -/
theorem headerDecode_ok {rd : Nat → Byte} {b l : Nat} {h : HeaderBlock} (hd : headerDecode rd b l = .ok h) :
    h.csrc.length = (csrcCount h.info).toNat ∧ (h.ext.isSome = true ↔ extension h.info = 1#1) ∧
      ∀ x ∈ h.ext, x.data.length = x.ehl.toNat ∧ 4 + 4 * x.ehl.toNat ≤ l := by
  rcases headerDecode_cases rd b l with ⟨_, e⟩ | ⟨_, _, e⟩ | ⟨_, hx, e⟩ | ⟨_, hx, ⟨_, _, e⟩ | ⟨x, hext, e⟩⟩
  all_goals rw [e] at hd; cases hd
  · exact ⟨length_readWords .., by simpa [headerFields] using hx, nofun⟩
  · obtain ⟨hlen, hfit⟩ := extDecode_ok hext
    refine ⟨length_readWords .., by simpa [headerFields] using hx, ?_⟩
    rintro y ⟨⟩
    exact ⟨hlen, by omega⟩

/-- A decoded extension block fits XDATA, whatever the buffer's length (42_extension_parse R211). -/
theorem data_length_le {x : ExtBlock} {len : Half} (h : x.data.length = x.ehl.toNat)
    (hfit : 4 + 4 * x.ehl.toNat ≤ len.toNat) : x.data.length ≤ xdataWords := by
  have hmax : xdataWords = 16382 := rfl
  have := len.isLt
  omega

theorem outcomeOf_xdata_length (rd : Nat → Byte) (i : Instr) :
    (outcomeOf rd i).results.xdata.length ≤ xdataWords := by
  cases i with
  | parseHeader base len =>
    cases hd : headerDecode rd base.toNat len.toNat with
    | error e => simp [outcomeOf, hd, Completion.ofHeader]
    | ok h =>
      obtain ⟨-, -, hx⟩ := headerDecode_ok hd
      cases he : h.ext with
      | none => simp [outcomeOf, hd, Completion.ofHeader, Results.ofHeader, he, Results.ofFields]
      | some x =>
        obtain ⟨hlen, hfit⟩ := hx x he
        simpa [outcomeOf, hd, Completion.ofHeader, Results.ofHeader, he, Results.withExt] using
          data_length_le hlen hfit
  | parseExtension base len =>
    cases hd : extDecode rd base.toNat len.toNat with
    | error e => simp [outcomeOf, hd, Completion.ofExt]
    | ok x =>
      obtain ⟨hlen, hfit⟩ := extDecode_ok hd
      simpa [outcomeOf, hd, Completion.ofExt, Results.withExt] using data_length_le hlen hfit
  | _ => exact Nat.zero_le _

/-- Every completion, specified or free, keeps XDATA within its depth. -/
theorem exec_xdata_length {i : Instr} {s t : State} (h : exec i s = .next t) :
    t.results.xdata.length ≤ xdataWords := by
  cases hs : s.specifiedFor i with
  | true => rw [exec_of_specifiedFor hs] at h; cases h; exact outcomeOf_xdata_length s.byteAt i
  | false => rw [exec_of_not_specifiedFor hs] at h; cases h; exact free_xdata_length s.freeCount

/-! ### The words that hold a value (10_state R46, R47) -/

/-- PARSE_HEADER raises every error, PARSE_EXTENSION those of the extension block (60_exceptions R230). -/
theorem outcomeShape_failed {s : State} {e : ParseError}
    (h : s.op = 0b000#3 ∨ s.op = 0b001#3 ∧ (e = .extensionHeaderMissing ∨ e = .insufficientExtensionData)) :
    (s.complete (Completion.failed e)).OutcomeShape where
  notOk _ := ⟨rfl, rfl⟩
  headerError he := by
    rcases h with h | ⟨-, rfl | rfl⟩
    · exact h
    all_goals rcases he with he | he <;> cases he
  extError _ := h.imp_right And.left
  header := nofun
  ext := nofun
  field := nofun

theorem outcomeShape_ofHeader {rd : Nat → Byte} {b l : Nat} {s : State} (hop : s.op = 0b000#3) :
    (s.complete (Completion.ofHeader (headerDecode rd b l))).OutcomeShape := by
  cases hd : headerDecode rd b l with
  | error e => exact outcomeShape_failed (.inl hop)
  | ok h =>
    obtain ⟨hc, hx, hdata⟩ := headerDecode_ok hd
    exact {
      notOk := fun hne => absurd rfl hne
      headerError := fun _ => hop
      extError := fun _ => .inl hop
      header := fun _ _ => ofHeader_shape hc hx fun x hm => (hdata x hm).1
      ext := fun _ h1 => absurd (hop.symm.trans h1) (by decide)
      field := fun _ h0 => absurd hop h0 }

theorem outcomeShape_ofExt {rd : Nat → Byte} {a n : Nat} {s : State} (hop : s.op = 0b001#3) :
    (s.complete (Completion.ofExt (extDecode rd a n))).OutcomeShape := by
  rcases extDecode_cases rd a n with ⟨_, e⟩ | ⟨_, _, e⟩ | ⟨_, _, e⟩ <;> rw [e]
  · exact outcomeShape_failed (.inr ⟨hop, .inl rfl⟩)
  · exact outcomeShape_failed (.inr ⟨hop, .inr rfl⟩)
  · exact {
      notOk := fun hne => absurd rfl hne
      headerError := fun h => by rcases h with h | h <;> cases h
      extError := fun _ => .inr hop
      header := fun _ h0 => absurd (hop.symm.trans h0) (by decide)
      ext := fun _ _ => withExt_shape (length_readWords ..)
      field := fun _ _ h1 => absurd hop h1 }

theorem outcomeShape_field {s : State} (h0 : s.op ≠ 0b000#3) (h1 : s.op ≠ 0b001#3) (f : BitVec 7) :
    (s.complete (Completion.field f)).OutcomeShape where
  notOk hne := absurd rfl hne
  headerError h := by rcases h with h | h <;> cases h
  extError h := by rcases h with h | h <;> cases h
  header _ h := absurd h h0
  ext _ h := absurd h h1
  field _ _ _ := field_shape f

/-- The outcome of a command's rule leaves exactly the words its OP and CODE name. -/
theorem outcomeShape_outcomeOf {s : State} {i : Instr} (hop : s.op = i.op) (rd : Nat → Byte) :
    (s.complete (outcomeOf rd i)).OutcomeShape := by
  cases i with
  | parseHeader base len => exact outcomeShape_ofHeader hop
  | parseExtension base len => exact outcomeShape_ofExt hop
  | _ => exact outcomeShape_field (by simp [hop, Instr.op]) (by simp [hop, Instr.op]) _

end Sys2Proof.Machine
end

section
/-! The invariant of the machine: it holds at reset and every step keeps it. -/

namespace Sys2Proof.Machine

/-! ### Steps that leave STATUS and the result words alone -/

/-- `t` has the parameters, STATUS, result words and latch of `s`. -/
structure KeepsOutcome (s t : State) : Prop where
  config : t.config = s.config
  busy : t.busy = s.busy
  code : t.code = s.code
  op : t.op = s.op
  xp : t.xp = s.xp
  results : t.results = s.results
  cmd : t.cmd = s.cmd

theorem KeepsOutcome.refl (s : State) : KeepsOutcome s s := ⟨rfl, rfl, rfl, rfl, rfl, rfl, rfl⟩

theorem KeepsOutcome.trans {s t u : State} (h : KeepsOutcome s t) (h' : KeepsOutcome t u) : KeepsOutcome s u where
  config := h'.config.trans h.config
  busy := h'.busy.trans h.busy
  code := h'.code.trans h.code
  op := h'.op.trans h.op
  xp := h'.xp.trans h.xp
  results := h'.results.trans h.results
  cmd := h'.cmd.trans h.cmd

variable (s : State) (r : List Turn)

theorem keepsOutcome_afterTurn : KeepsOutcome s (s.afterTurn r) := ⟨rfl, rfl, rfl, rfl, rfl, rfl, rfl⟩

theorem keepsOutcome_readReg (n : BitVec 8) : KeepsOutcome s ((s.afterTurn r).readReg n) :=
  ⟨rfl, rfl, rfl, rfl, rfl, rfl, rfl⟩

theorem keepsOutcome_readXdata (j : BitVec 14) : KeepsOutcome s ((s.afterTurn r).readXdata j) :=
  ⟨rfl, rfl, rfl, rfl, rfl, rfl, rfl⟩

theorem keepsOutcome_write (a : Nat) (v : Byte) :
    KeepsOutcome s (((s.afterTurn r).noteHazard a).setByte a v) :=
  ⟨rfl, rfl, rfl, rfl, rfl, rfl, rfl⟩

/-- The shape of the outcome is a property of STATUS and the result words. -/
theorem KeepsOutcome.outcomeShape {s t : State} (h : KeepsOutcome s t) (hs : s.OutcomeShape) : t.OutcomeShape := by
  obtain ⟨notOk, headerError, extError, header, ext, field⟩ := hs
  constructor <;> rw [h.code] <;> simp only [h.op, h.xp, h.results] <;> assumption

/-! ### FAULT only grows (60_exceptions R243) -/

theorem subset_afterRead (f : FaultSet) (w : Option Word) : f.Subset (f.afterRead w) :=
  ⟨fun h => by simp [FaultSet.afterRead, h], id, id⟩

theorem subset_accept (c : CommandWord) : s.faults.Subset (s.accept c).faults :=
  ⟨id, fun h => by simp [h], id⟩

theorem subset_noteHazard (a : Nat) : s.faults.Subset (s.noteHazard a).faults :=
  ⟨id, id, fun h => by simp [h]⟩

/-- No step takes a name out of FAULT. -/
theorem step_faults_subset {s t : State} (h : step s = .next t) : s.faults.Subset t.faults := by
  have same : s.faults.Subset s.faults := ⟨id, id, id⟩
  cases step_cases h with
  | complete r _ _ e => obtain ⟨d, k, rfl⟩ := exec_cases e; exact same
  | idle _ _ e => subst e; exact same
  | parserIdle r _ _ e => subst e; exact same
  | issue c r _ _ e => subst e; exact subset_accept (s.afterTurn r) c
  | write a v r _ _ e => subst e; exact subset_noteHazard (s.afterTurn r) a.toNat
  | readReg n r _ e => subst e; exact subset_afterRead _ _
  | readXdata j r _ e => subst e; exact subset_afterRead _ _
  | reset r _ e => subst e; exact same

/-- A set of names inside the empty one is empty. -/
theorem faultFree_of_subset {s t : State} (h : s.faults.Subset t.faults) (ht : t.FaultFree) : s.FaultFree := by
  obtain ⟨hn, hr, hp⟩ := h
  rw [State.FaultFree] at ht
  rw [ht] at hn hr hp
  rcases hf : s.faults with ⟨n, q, p⟩
  simp_all [State.FaultFree, FaultSet.empty]

/-! ### A running command whose result the spec gives -/

theorem op_instr (l : Latch) : l.instr.op = l.op := op_decodeFields ..

/-- A latch that holds a parse command holds its operands. -/
theorem instr_eq_parse {l : Latch} {base len : Half}
    (h : l.instr = .parseHeader base len ∨ l.instr = .parseExtension base len) :
    isParseOp l.op = true ∧ base = l.base ∧ len = l.len := by
  have hop : isParseOp l.op = true := by rcases h with h | h <;> rw [← op_instr, h] <;> rfl
  refine ⟨hop, ?_⟩
  unfold Latch.instr decodeFields at h
  split at h <;> rcases h with h | h <;> cases h <;> exact ⟨rfl, rfl⟩

theorem specifiedFor_of {s : State} {i : Instr}
    (h : ∀ base len, i = .parseHeader base len ∨ i = .parseExtension base len → s.specified base len = true) :
    s.specifiedFor i = true := by
  cases i with
  | parseHeader base len => exact h base len (.inl rfl)
  | parseExtension base len => exact h base len (.inr rfl)
  | _ => rfl

/-- With FAULT empty, the running command's buffer lies in PBUF and was not written. -/
theorem Inv.specifiedFor {s : State} (h : Inv s) (hb : s.busy = true) (hf : s.FaultFree) :
    s.specifiedFor s.cmd.instr = true := by
  refine specifiedFor_of fun base len hi => ?_
  obtain ⟨hop, rfl, rfl⟩ := instr_eq_parse hi
  have hhazard : s.hazard = false := by
    by_contra hne
    have := (h.hazardNoted (by simpa using hne)).2
    simp [hf, FaultSet.empty] at this
  have hrange : ¬ rangeBroken s.config s.cmd = true := fun hr => by
    have := h.rangeNoted hb hr
    simp [hf, FaultSet.empty] at this
  rw [rangeBroken_iff] at hrange
  exact specified_of hhazard (by by_contra hlt; exact hrange ⟨hop, by omega⟩)

/-! ### What keeps the invariant -/

/-- Before any command has ended no word holds a value, and none should. -/
theorem outcomeShape_none {s : State} (hc : s.code = .none) (hx : s.xp = false) (hr : s.results = Results.noValue) :
    s.OutcomeShape where
  notOk _ := ⟨hx, hr⟩
  headerError h := by simp [hc] at h
  extError h := by simp [hc] at h
  header h := by simp [hc] at h
  ext h := by simp [hc] at h
  field h := by simp [hc] at h

/-- A step that keeps the outcome and FAULT's names keeps the invariant, if it leaves PBUF canonical and notes each
new hazard. -/
theorem Inv.of_keepsOutcome {s t : State} (h : Inv s) (hk : KeepsOutcome s t) (hf : s.faults.Subset t.faults)
    (hpbuf : Memory.wf t.pbuf) (hrange : ∀ c ∈ t.pbuf, c.1 < s.config.pbufBytes)
    (hhazard : t.hazard = true → s.hazard = true ∨ s.busy = true ∧ t.faults.pbufHazard = true) : Inv t where
  config := by rw [hk.config]; exact h.config
  pbuf := hpbuf
  pbufRange := by rw [hk.config]; exact hrange
  opLatch := by rw [hk.op, hk.cmd]; exact h.opLatch
  xdata := by rw [hk.results]; exact h.xdata
  running := by rw [hk.busy, hk.code, hk.xp, hk.results]; exact h.running
  hazardNoted ht := by
    obtain ⟨-, -, sub⟩ := hf
    rw [hk.busy]
    exact (hhazard ht).elim (fun hs => (h.hazardNoted hs).imp_right sub) id
  rangeNoted hb hr := by
    obtain ⟨-, sub, -⟩ := hf
    rw [hk.busy] at hb
    rw [hk.config, hk.cmd] at hr
    exact sub (h.rangeNoted hb hr)
  shape ht := hk.outcomeShape (h.shape (faultFree_of_subset hf ht))

/-- Steps that leave PBUF and the hazard flag alone as well. -/
theorem Inv.of_keepsOutcome_pbuf {s t : State} (h : Inv s) (hk : KeepsOutcome s t) (hf : s.faults.Subset t.faults)
    (hpbuf : t.pbuf = s.pbuf) (hhazard : t.hazard = s.hazard) : Inv t :=
  h.of_keepsOutcome hk hf (by rw [hpbuf]; exact h.pbuf) (by rw [hpbuf]; exact h.pbufRange)
    fun ht => .inl (hhazard ▸ ht)

theorem Inv.write {s : State} (h : Inv s) (r : List Turn) {a : Nat} (v : Byte) (ha : a < s.config.pbufBytes) :
    Inv (((s.afterTurn r).noteHazard a).setByte a v) := by
  refine h.of_keepsOutcome (keepsOutcome_write s r a v) (subset_noteHazard (s.afterTurn r) a) (wf_set h.pbuf a v) ?_ ?_
  · intro c hc
    rcases mem_set hc with rfl | hc
    · exact ha
    · exact h.pbufRange c hc
  · intro ht
    have : s.hazard = true ∨ s.hazardAt a = true := by simpa using ht
    exact this.imp_right fun hz => ⟨((hazardAt_iff s a).1 hz).1, by simp [hz]⟩

/-- A completion keeps the invariant: with FAULT empty its outcome is the one the spec gives. -/
theorem Inv.complete {s t : State} (h : Inv s) (hb : s.busy = true) (he : exec s.cmd.instr s = .next t) : Inv t := by
  have hfr : ∃ d k, t = (s.complete d).withFreeCount k := exec_cases he
  have hxd := exec_xdata_length he
  have hshape : s.FaultFree → t.OutcomeShape := fun hf => by
    rw [exec_of_specifiedFor (h.specifiedFor hb hf)] at he
    cases he
    exact outcomeShape_outcomeOf (h.opLatch.trans (op_instr _).symm) _
  obtain ⟨d, k, rfl⟩ := hfr
  exact {
    config := h.config
    pbuf := h.pbuf
    pbufRange := h.pbufRange
    opLatch := h.opLatch
    xdata := hxd
    running := nofun
    hazardNoted := nofun
    rangeNoted := nofun
    shape := hshape }

theorem Inv.accept {s : State} (h : Inv s) (c : CommandWord) : Inv (s.accept c) where
  config := h.config
  pbuf := h.pbuf
  pbufRange := h.pbufRange
  opLatch := rfl
  xdata := Nat.zero_le _
  running _ := ⟨rfl, rfl, rfl⟩
  hazardNoted := nofun
  rangeNoted _ hr := by
    rw [accept_config, accept_cmd] at hr
    simp [hr]
  shape _ := outcomeShape_none rfl rfl rfl

theorem Inv.resetBlock {s : State} (h : Inv s) : Inv s.resetBlock where
  config := h.config
  pbuf := h.pbuf
  pbufRange := h.pbufRange
  opLatch := rfl
  xdata := Nat.zero_le _
  running := nofun
  hazardNoted := nofun
  rangeNoted := nofun
  shape _ := outcomeShape_none rfl rfl rfl

theorem Inv.afterTurn {s : State} (h : Inv s) (r : List Turn) : Inv (s.afterTurn r) :=
  h.of_keepsOutcome_pbuf (keepsOutcome_afterTurn s r) ⟨id, id, id⟩ rfl rfl

theorem Inv.step {s t : State} (h : Inv s) (hs : step s = .next t) : Inv t := by
  cases step_cases hs with
  | complete r hb _ e => exact (h.afterTurn r).complete hb e
  | idle _ _ e => subst e; exact h
  | parserIdle r _ _ e => subst e; exact h.afterTurn r
  | issue c r _ _ e => subst e; exact (h.afterTurn r).accept c
  | write a v r _ ha e => subst e; exact h.write r v ha
  | readReg n r _ e =>
    subst e; exact h.of_keepsOutcome_pbuf (keepsOutcome_readReg s r n) (subset_afterRead _ _) rfl rfl
  | readXdata j r _ e =>
    subst e; exact h.of_keepsOutcome_pbuf (keepsOutcome_readXdata s r j) (subset_afterRead _ _) rfl rfl
  | reset r _ e => subst e; exact (h.afterTurn r).resetBlock

/-- The invariant holds in the state after reset. -/
theorem inv_reset : Inv State.reset where
  config := by decide
  pbuf := List.Pairwise.nil
  pbufRange := nofun
  opLatch := rfl
  xdata := Nat.zero_le _
  running := nofun
  hazardNoted := nofun
  rangeNoted := nofun
  shape _ := outcomeShape_none rfl rfl rfl

end Sys2Proof.Machine

namespace Sys2Proof

/-- Settles O42, by the cases of a step: a completion leaves the outcome of its command's rule or a name in FAULT,
accept and reset leave no value, and every other step keeps STATUS and the result words. -/
theorem stepKeepsTheInvariant : Obligations.StepKeepsTheInvariant := fun _ _ h hs => h.step hs

/-- Settles O41. -/
theorem resetMeetsTheInvariant : Obligations.ResetMeetsTheInvariant := Machine.inv_reset

end Sys2Proof
end

section
/-! One equation per turn: the step a turn makes (10_state R50 to R55), and what a step can change. -/

namespace Sys2Proof.Machine
variable {s t : State} {rest : List Turn}

theorem step_issue {c : CommandWord} (hb : s.busy = false) (h : s.turns = .issue c :: rest) :
    step s = .next ((s.afterTurn rest).accept c) := by simp [step, nextMove, h, hb]

theorem step_issue_busy {c : CommandWord} (hb : s.busy = true) (h : s.turns = .issue c :: rest) :
    step s = exec s.cmd.instr s := by simp [step, nextMove, h, hb]

theorem step_parser (hb : s.busy = true) (h : s.turns = .parser :: rest) :
    step s = exec s.cmd.instr (s.afterTurn rest) := by simp [step, nextMove, h, hb]

theorem step_no_turns (hb : s.busy = true) (h : s.turns = []) : step s = exec s.cmd.instr s := by
  simp [step, nextMove, h, hb]

theorem step_writePbuf {a : Half} {v : Byte} (h : s.turns = .writePbuf a v :: rest) :
    step s = (s.afterTurn rest).writePbuf a v := by simp [step, nextMove, h]

theorem step_writePbuf_next {a : Half} {v : Byte} (h : s.turns = .writePbuf a v :: rest)
    (ha : a.toNat < s.config.pbufBytes) :
    step s = .next (((s.afterTurn rest).noteHazard a.toNat).setByte a.toNat v) := by
  rw [step_writePbuf h]
  exact if_pos ha

theorem step_readReg {n : BitVec 8} (h : s.turns = .readReg n :: rest) :
    step s = .next ((s.afterTurn rest).readReg n) := by simp [step, nextMove, h]

theorem step_readXdata {j : BitVec 14} (h : s.turns = .readXdata j :: rest) :
    step s = .next ((s.afterTurn rest).readXdata j) := by simp [step, nextMove, h]

/-- STATUS reads 0 after a reset (10_state R60). -/
theorem resetBlock_statusWord (s : State) : s.resetBlock.statusWord = 0 := by
  simp [State.statusWord, Code.bits]

theorem step_reset (h : s.turns = .reset :: rest) : step s = .next (s.afterTurn rest).resetBlock := by
  simp [step, nextMove, h]

/-- A step keeps the outcome, or it is a completion, an accept or a reset (10_state R58). -/
theorem step_keepsOutcome_or (h : step s = .next t) :
    KeepsOutcome s t ∨
    (s.busy = true ∧ ∃ r, exec s.cmd.instr (s.afterTurn r) = .next t) ∨
    (s.busy = false ∧ ∃ c rest, s.turns = .issue c :: rest) ∨ ∃ rest, s.turns = .reset :: rest := by
  cases step_cases h with
  | complete r hb _ e => exact .inr (.inl ⟨hb, r, e⟩)
  | issue c r hb ht _ => exact .inr (.inr (.inl ⟨hb, c, r, ht⟩))
  | reset r ht _ => exact .inr (.inr (.inr ⟨r, ht⟩))
  | idle _ _ e => subst e; exact .inl (.refl _)
  | parserIdle r _ _ e => subst e; exact .inl (keepsOutcome_afterTurn s r)
  | write a v r _ _ e => subst e; exact .inl (keepsOutcome_write s r a.toNat v)
  | readReg n r _ e => subst e; exact .inl (keepsOutcome_readReg s r n)
  | readXdata j r _ e => subst e; exact .inl (keepsOutcome_readXdata s r j)

end Sys2Proof.Machine

namespace Sys2Proof
open Sys2Proof.Machine

/-- Settles O40: any other step keeps STATUS and the result words. -/
theorem onlyCompletionAcceptAndResetChangeResults : Obligations.OnlyCompletionAcceptAndResetChangeResults := by
  intro s t h hchange
  refine (step_keepsOutcome_or h).resolve_left fun hk => ?_
  rcases hchange with hne | hne | hne | hne | hne
  · exact hne hk.busy
  · exact hne hk.code
  · exact hne hk.op
  · exact hne hk.xp
  · exact hne hk.results

/-- Settles O36: the step on each of the three turns, and the latch an accept leaves decodes as its word. -/
theorem stepRunsTheLatchedCommand : Obligations.StepRunsTheLatchedCommand :=
  ⟨fun _ _ hb h => step_parser hb h, fun _ hb h => step_no_turns hb h,
    fun _ _ _ hb h => ⟨_, step_issue hb h, step_parser rfl rfl⟩⟩

/-- Settles O37: the placed word is in the latch of a busy block and the PARSER has the next turn. -/
theorem fetchedWordRunsNext : Obligations.FetchedWordRunsNext := by
  intro s nbits w i h
  have hi : decode (BitVec.ofNat 64 (w % 2 ^ nbits)) = i := by
    unfold decodeTableWord decodeBits at h
    split at h
    · exact Option.some.inj h
    · cases h
  rw [← hi]
  exact step_parser (s := s.withFetchWord nbits w) rfl rfl

/-- Settles O51: an idle block takes the offer off the list, and a busy one, whose completion keeps the turns, leaves
it. -/
theorem pinsFollowBusy : Obligations.PinsFollowBusy := by
  intro s
  refine ⟨rfl, rfl, rfl, rfl, fun c rest h => ?_⟩
  cases hb : s.busy with
  | false => exact ⟨_, step_issue hb h, by simp [State.cmdReady, hb]⟩
  | true =>
    obtain ⟨d, k, e⟩ := exec_next s.cmd.instr s
    exact ⟨_, (step_issue_busy hb h).trans e, by simp [State.cmdReady, hb, h]⟩

/-- Settles O29. -/
theorem writeOutsidePbufStops : Obligations.WriteOutsidePbufStops := by
  intro s a v rest h ha
  rw [step_writePbuf h]
  exact if_neg (Nat.not_lt.2 ha)

/-- Settles O34. -/
theorem resetTakesTheResetValues : Obligations.ResetTakesTheResetValues := fun _ _ h =>
  ⟨_, step_reset h, rfl, rfl, rfl, rfl, resetBlock_statusWord _, rfl, byteAt_of_pbuf rfl, rfl, rfl, rfl, rfl, rfl⟩

/-- Settles O26: the fields of the accepted word as numbers, and the range check on them. -/
theorem issueLatchesTheCommand : Obligations.IssueLatchesTheCommand := by
  intro s c rest hb h
  have hrange : rangeBroken s.config (Latch.ofWord c) = true ↔
      c.toNat % 8 < 2 ∧ s.config.pbufBytes < c.toNat / 2 ^ 48 + c.toNat / 2 ^ 32 % 2 ^ 16 := by
    have hop : c.toNat % 8 = (opField c).toNat := (opField_toNat c).symm
    rw [rangeBroken_iff, isParseOp_iff, ← baseField_toNat, ← lenField_toNat, hop]
    rfl
  refine ⟨_, step_issue hb h, opField_toNat c, wordField_toNat c, lenField_toNat c, baseField_toNat c, rfl, rfl, rfl,
    rfl, rfl, ?_, rfl, rfl, byteAt_of_pbuf rfl, rfl, rfl, rfl, rfl⟩
  rw [← hrange]
  simp

/-- Settles O28: the byte map after a write, and the hazard test on the latch's fields. -/
theorem writePbufWritesOneByte : Obligations.WritePbufWritesOneByte := by
  intro s a v rest h ha
  have hhazard : s.hazardAt a.toNat = true ↔ s.busy = true ∧ s.cmd.op.toNat < 2 ∧ s.cmd.base.toNat ≤ a.toNat ∧
      a.toNat < s.cmd.base.toNat + s.cmd.len.toNat := by
    rw [hazardAt_iff, isParseOp_iff, covers_iff]
  refine ⟨_, step_writePbuf_next h ha, fun x => ?_, ?_, rfl, rfl, rfl, rfl, rfl, rfl, rfl, rfl, rfl, rfl, rfl, rfl⟩
  · rw [byteAt_setByte]
    rfl
  · rw [← hhazard]
    simp

end Sys2Proof
end

section
/-! What the HOST's reads return (10_state R36, R53 to R57), and the state a run starts from. -/

namespace Sys2Proof.Machine

@[simp] theorem statusWord_afterTurn (s : State) (r : List Turn) : (s.afterTurn r).statusWord = s.statusWord := rfl

/-- The reserved indices 0x08 to 0x0F and 0x1F up read 0 (R57). -/
theorem regWord_reserved (s : State) {n : BitVec 8}
    (h : (0x08 ≤ n.toNat ∧ n.toNat ≤ 0x0F) ∨ 0x1F ≤ n.toNat) : s.regWord n = some 0 := by
  have hn : ∀ k : BitVec 8, k.toNat < 0x08 → n ≠ k := by
    rintro k hk rfl
    omega
  unfold State.regWord
  rw [if_neg (hn _ (by decide)), if_neg (hn _ (by decide)), if_neg (hn _ (by decide)), if_neg (hn _ (by decide)),
    if_neg (hn _ (by decide)), if_neg (hn _ (by decide)), if_neg (hn _ (by decide)), if_neg (hn _ (by decide))]
  split
  · rw [Vector.getElem?_eq_none (by have : csrcMax = 15 := rfl; omega)]
    rfl
  · rfl

/-- The CSRC registers, when no result word holds a value. -/
theorem regWord_csrc_noValue {s : State} (h : s.results = Results.noValue) {n : BitVec 8} (h1 : 0x10 ≤ n.toNat)
    (h2 : n.toNat ≤ 0x1E) : s.regWord n = none := by
  have hi : n.toNat - 0x10 < csrcMax := by have : csrcMax = 15 := rfl; omega
  rw [regWord_csrc s n ⟨n.toNat - 0x10, hi⟩ (by simp; omega), h]
  exact Vector.getElem_replicate ..

theorem xdataWord_of_lt (s : State) {j : BitVec 14} (h : j.toNat < xdataWords) :
    s.xdataWord j = s.results.xdata[j.toNat]? := if_pos h

theorem xdataWord_noValue {s : State} (h : s.results = Results.noValue) {j : BitVec 14} (hj : j.toNat < xdataWords) :
    s.xdataWord j = none := by
  rw [xdataWord_of_lt s hj, h]
  rfl

/-- A field set above the bits of `a` adds its number, times its weight. -/
theorem toNat_or_shiftLeft {w i : Nat} {a : Word} (v : BitVec w) (ha : a.toNat < 2 ^ i) (hi : w + i ≤ 32) :
    (a ||| v.setWidth 32 <<< i).toNat = a.toNat + 2 ^ i * v.toNat := by
  have hv : v.toNat < 2 ^ 32 := lt_of_lt_of_le v.isLt (Nat.pow_le_pow_right (by omega) (by omega))
  have hshift : v.toNat * 2 ^ i < 2 ^ 32 :=
    calc v.toNat * 2 ^ i < 2 ^ w * 2 ^ i := Nat.mul_lt_mul_of_pos_right v.isLt (Nat.two_pow_pos i)
      _ = 2 ^ (w + i) := (pow_add 2 w i).symm
      _ ≤ 2 ^ 32 := Nat.pow_le_pow_right (by omega) hi
  rw [BitVec.toNat_or, BitVec.toNat_shiftLeft, BitVec.toNat_setWidth, Nat.mod_eq_of_lt hv, Nat.shiftLeft_eq,
    Nat.mod_eq_of_lt hshift, ← Nat.shiftLeft_eq, Nat.or_comm, ← Nat.shiftLeft_add_eq_or_of_lt ha, Nat.shiftLeft_eq]
  ring

/-- STATUS is its fields side by side (R36), so its number is the sum of theirs, each times its weight. -/
theorem statusWord_toNat (s : State) :
    s.statusWord.toNat = s.busy.toNat + 2 * s.code.bits.toNat + 16 * s.op.toNat + 128 * s.xp.toNat := by
  have hb : ((BitVec.ofBool s.busy).setWidth 32).toNat = s.busy.toNat := by cases s.busy <;> rfl
  have hbusy := s.busy.toNat_lt
  have hcode := s.code.bits.isLt
  have hop := s.op.isLt
  have low := toNat_or_shiftLeft (i := 1) (a := (BitVec.ofBool s.busy).setWidth 32) s.code.bits (by omega) (by omega)
  have mid := toNat_or_shiftLeft (i := 4) s.op (by rw [low]; omega) (by omega)
  have high := toNat_or_shiftLeft (i := 7) (BitVec.ofBool s.xp) (by rw [mid, low]; omega) (by omega)
  rw [State.statusWord, high, mid, low, hb, BitVec.toNat_ofBool]
  norm_num

end Sys2Proof.Machine

namespace Sys2Proof
open Sys2Proof.Machine

/-- Settles O31: the weights of STATUS's fields, and the number of each outcome. -/
theorem statusWordLayout : Obligations.StatusWordLayout := by
  intro s
  refine ⟨?_, rfl⟩
  have hbusy : s.busy.toNat = if s.busy then 1 else 0 := by cases s.busy <;> rfl
  have hxp : 128 * s.xp.toNat = if s.xp then 128 else 0 := by cases s.xp <;> rfl
  rw [statusWord_toNat, hbusy, hxp]
  rcases s.code with _ | _ | (_ | _ | _ | _) <;> rfl

/-- Settles O30: each index selects its word, and the read changes the port and READ_NO_VALUE alone. -/
theorem readRegReturnsTheWord : Obligations.ReadRegReturnsTheWord := by
  intro s n rest h
  refine ⟨_, step_readReg h, rfl, ?_, ?_, ?_, ?_, ?_, ?_, ?_, ?_, regWord_csrc s n, regWord_reserved s⟩
  all_goals
    rintro rfl
    simp [State.regWord]

/-- Settles O32. -/
theorem readXdataReturnsTheWord : Obligations.ReadXdataReturnsTheWord := fun s _ _ h =>
  ⟨_, step_readXdata h, rfl, xdataWord_of_lt s, fun hj => if_neg (Nat.not_lt.2 hj)⟩

/-- Settles O35: no result word holds a value, so no read but that of STATUS finds one. -/
theorem resetStateValues : Obligations.ResetStateValues :=
  ⟨rfl, rfl, rfl, rfl, by decide, rfl, rfl, fun _ => regWord_named_noValue rfl, fun _ => regWord_csrc_noValue rfl,
    fun _ => xdataWord_noValue rfl, fun _ => rfl⟩

end Sys2Proof
end

section
/-! Outcomes: errors, the extension flag, and a running command beside the HOST's accesses. -/

namespace Sys2Proof.Machine

/-- A command still running, as it was but for reads and for writes outside its buffer. -/
structure StillRuns (s t : State) : Prop extends KeepsOutcome s t where
  hazard : t.hazard = s.hazard
  buffer : isParseOp s.cmd.op = true → ∀ a, s.cmd.covers a = true → t.byteAt a = s.byteAt a

theorem StillRuns.refl (s : State) : StillRuns s s := ⟨.refl s, rfl, fun _ _ _ => rfl⟩

theorem StillRuns.trans {s t u : State} (h : StillRuns s t) (h' : StillRuns t u) : StillRuns s u where
  toKeepsOutcome := h.toKeepsOutcome.trans h'.toKeepsOutcome
  hazard := h'.hazard.trans h.hazard
  buffer hop a ha := by
    have hb := h'.buffer
    rw [h.cmd] at hb
    exact (hb hop a ha).trans (h.buffer hop a ha)

/-- An access that leaves FAULT empty leaves a running command's buffer alone (70 R270). -/
theorem step_access {s t : State} {x : Turn} {rest : List Turn} (hb : s.busy = true) (ht : s.turns = x :: rest)
    (hx : x.IsAccess) (h : step s = .next t) (hf : t.FaultFree) : StillRuns s t ∧ t.turns = rest := by
  cases x with
  | readReg n =>
    rw [step_readReg ht] at h
    cases h
    exact ⟨⟨keepsOutcome_readReg s rest n, rfl, fun _ _ _ => rfl⟩, rfl⟩
  | readXdata j =>
    rw [step_readXdata ht] at h
    cases h
    exact ⟨⟨keepsOutcome_readXdata s rest j, rfl, fun _ _ _ => rfl⟩, rfl⟩
  | writePbuf a v =>
    rw [step_writePbuf ht] at h
    rcases writePbuf_cases a v (s.afterTurn rest) with ⟨_, e⟩ | ⟨_, e⟩ <;> rw [e] at h <;> cases h
    have hno : s.hazardAt a.toNat = false := by
      have hp := congrArg FaultSet.pbufHazard hf
      simp only [setByte_faults, noteHazard_faults, hazardAt_afterTurn, FaultSet.empty, Bool.or_eq_false_iff] at hp
      exact hp.2
    refine ⟨⟨keepsOutcome_write s rest a.toNat v, by simp [hno], fun hop b hcov => ?_⟩, rfl⟩
    have hne : b ≠ a.toNat := by
      rintro rfl
      rw [(hazardAt_iff s a.toNat).2 ⟨hb, hop, hcov⟩] at hno
      cases hno
    rw [byteAt_setByte, if_neg hne]
    rfl
  | issue | reset | parser => exact hx.elim

/-- FAULT only grows along a run. -/
theorem run_faults_subset {k : Nat} {s t : State} (h : Sys2Proof.core.run k s = .next t) :
    s.faults.Subset t.faults := by
  induction k generalizing s with
  | zero => cases h; exact ⟨id, id, id⟩
  | succ k ih =>
    obtain ⟨u, hstep, hrun⟩ := run_succ h
    obtain ⟨hn, hr, hp⟩ := step_faults_subset hstep
    obtain ⟨hn', hr', hp'⟩ := ih hrun
    exact ⟨hn' ∘ hn, hr' ∘ hr, hp' ∘ hp⟩

/-- A run of accesses that leaves FAULT empty leaves the command running and its buffer alone. -/
theorem run_accesses {xs rest : List Turn} {s t : State} (hb : s.busy = true) (ht : s.turns = xs ++ rest)
    (hx : ∀ x ∈ xs, x.IsAccess) (h : Sys2Proof.core.run xs.length s = .next t) (hf : t.FaultFree) :
    StillRuns s t ∧ t.turns = rest := by
  induction xs generalizing s with
  | nil => cases h; exact ⟨.refl _, ht⟩
  | cons x xs ih =>
    obtain ⟨u, hstep, hrun⟩ := run_succ h
    have hfu : u.FaultFree := faultFree_of_subset (run_faults_subset hrun) hf
    obtain ⟨hsu, htu⟩ := step_access hb ht (hx x (by simp)) hstep hfu
    obtain ⟨hut, htt⟩ := ih (hsu.busy.trans hb) htu (fun y hy => hx y (by simp [hy])) hrun
    exact ⟨hsu.trans hut, htt⟩

/-- The command still running has the outcome it had. -/
theorem StillRuns.outcomeOf_eq {s t : State} (h : StillRuns s t) :
    outcomeOf t.byteAt s.cmd.instr = outcomeOf s.byteAt s.cmd.instr := by
  refine outcomeOf_congr fun base len hi k hk => ?_
  obtain ⟨hop, rfl, rfl⟩ := instr_eq_parse hi
  exact h.buffer hop _ ((covers_iff s.cmd _).2 (by omega))

/-- Its operands are as specified as they were. -/
theorem StillRuns.specifiedFor_eq {s t : State} (h : StillRuns s t) (i : Instr) :
    t.specifiedFor i = s.specifiedFor i := by
  cases i with
  | parseHeader base len | parseExtension base len =>
    simp only [State.specifiedFor, State.specified, h.hazard, h.config]
  | _ => rfl

end Sys2Proof.Machine

namespace Sys2Proof
open Sys2Proof.Machine

/-- Settles O18: an outcome with an error code is the error outcome. -/
theorem parseErrorsWriteOnlyStatus : Obligations.ParseErrorsWriteOnlyStatus := by
  intro b l s t i e hz hr hi h hcode
  have hs : s.specifiedFor i = true := by rcases hi with rfl | rfl <;> exact specified_of hz hr
  rw [exec_of_specifiedFor hs] at h
  cases h
  rw [outcomeOf_eq_failed hcode]
  exact complete_failed s e

/-- Settles O45: what the invariant says of XP in each of the shapes an outcome has. -/
theorem xpMeansAnExtensionWasDecoded : Obligations.XpMeansAnExtensionWasDecoded := by
  intro s h hf
  have shape := h.shape hf
  constructor
  · intro hx
    have hb : s.busy = false := by
      by_contra hne
      have := (h.running (by simpa using hne)).2.1
      simp [this] at hx
    have hc : s.code = .ok := by
      by_contra hne
      have := (shape.notOk hne).1
      simp [this] at hx
    refine ⟨hb, hc, ?_⟩
    by_cases h1 : s.op = 0b001#3
    · exact .inl h1
    · by_cases h0 : s.op = 0b000#3
      · obtain ⟨⟨info, hi, -, hiff⟩, -⟩ := shape.header hc h0
        exact .inr ⟨h0, info, hi, hiff.1 hx⟩
      · have := (shape.field hc h0 h1).1
        simp [this] at hx
  · rintro ⟨-, hc, h1 | ⟨h0, info, hi, he⟩⟩
    · exact (shape.ext hc h1).1
    · obtain ⟨⟨info', hi', -, hiff⟩, -⟩ := shape.header hc h0
      cases hi.symm.trans hi'
      exact hiff.2 he

/-- Settles O48: accesses that leave FAULT empty keep the latch and the bytes of the running command's buffer, on which
alone its outcome depends. -/
theorem commandSeesItsBufferAsAtAccept : Obligations.CommandSeesItsBufferAsAtAccept := by
  intro s t xs rest h hb ht hx hrun hf
  obtain ⟨hk, htt⟩ := run_accesses hb ht hx hrun hf
  have hs := h.specifiedFor hb (faultFree_of_subset (run_faults_subset hrun) hf)
  have ht' : exec t.cmd.instr t = .next (t.complete (outcomeOf s.byteAt s.cmd.instr)) := by
    rw [hk.cmd, ← hk.outcomeOf_eq]
    exact exec_of_specifiedFor ((hk.specifiedFor_eq _).trans hs)
  exact ⟨hk.busy.trans hb, htt, _, _, exec_of_specifiedFor hs, ht', rfl, rfl, rfl⟩

end Sys2Proof
end

section
/-! PBUF and the reads of the HOST: what a parse depends on, what an access keeps, and who writes a byte
(20_memory R82, R83, R94). -/

namespace Sys2Proof.Machine
variable {s t : State}

/-- A parse command completes with its rule's outcome when its operands are specified. -/
theorem specifiedFor_parse {base len : Half} {i : Instr}
    (hi : i = .parseHeader base len ∨ i = .parseExtension base len) (hz : s.hazard = false)
    (hr : base.toNat + len.toNat ≤ s.config.pbufBytes) : s.specifiedFor i = true := by
  rcases hi with rfl | rfl <;> exact specified_of hz hr

/-- A parse command's outcome depends on the bytes of its buffer alone. -/
theorem outcomeOf_parse_congr {rd rd' : Nat → Byte} {base len : Half} {i : Instr}
    (hi : i = .parseHeader base len ∨ i = .parseExtension base len)
    (h : ∀ k < len.toNat, rd (base.toNat + k) = rd' (base.toNat + k)) : outcomeOf rd i = outcomeOf rd' i := by
  refine outcomeOf_congr fun base' len' hi' => ?_
  rcases hi with rfl | rfl <;> rcases hi' with e | e <;> cases e <;> exact h

/-- A write or a read of the HOST's, at whatever address or index, keeps STATUS and the result words. -/
theorem step_access_keepsOutcome {x : Turn} {rest : List Turn} (ht : s.turns = x :: rest) (hx : x.IsAccess)
    (h : step s = .next t) : KeepsOutcome s t := by
  cases x with
  | readReg n =>
    rw [step_readReg ht] at h
    cases h
    exact keepsOutcome_readReg s rest n
  | readXdata j =>
    rw [step_readXdata ht] at h
    cases h
    exact keepsOutcome_readXdata s rest j
  | writePbuf a v =>
    rw [step_writePbuf ht] at h
    rcases writePbuf_cases a v (s.afterTurn rest) with ⟨_, e⟩ | ⟨_, e⟩ <;> rw [e] at h <;> cases h
    exact keepsOutcome_write s rest a.toNat v
  | issue | reset | parser => exact hx.elim

/-- Every step but WRITE_PBUF leaves PBUF as it was. -/
theorem step_pbuf_of_not_writePbuf (h : step s = .next t) (hw : ∀ a v rest, s.turns ≠ .writePbuf a v :: rest) :
    t.pbuf = s.pbuf := by
  cases step_cases h with
  | write a v r turn _ _ => exact absurd turn (hw a v r)
  | complete r _ _ e => obtain ⟨d, k, rfl⟩ := exec_cases e; rfl
  | idle _ _ e | parserIdle r _ _ e | issue c r _ _ e | readReg n r _ e | readXdata j r _ e | reset r _ e =>
    subst e; rfl

end Sys2Proof.Machine

namespace Sys2Proof
open Sys2Proof.Machine

/-- Settles O20: both states complete with the outcome of the command's rule, which reads inside the buffer. -/
theorem parseOutcomeDependsOnlyOnItsBuffer : Obligations.ParseOutcomeDependsOnlyOnItsBuffer := by
  intro b l i s u hi hzs hzu hrs hru hbytes
  have hs := exec_of_specifiedFor (specifiedFor_parse hi hzs hrs)
  have hu := exec_of_specifiedFor (specifiedFor_parse hi hzu hru)
  rw [← outcomeOf_parse_congr hi hbytes] at hu
  exact ⟨_, _, hs, hu, rfl, rfl, rfl⟩

/-- Settles O33: an access keeps STATUS and the result words, and every read returns one of these. -/
theorem readsAreRepeatable : Obligations.ReadsAreRepeatable := by
  intro s t x rest ht hx h
  have hk := step_access_keepsOutcome ht hx h
  exact ⟨regWord_congr hk.busy hk.code hk.op hk.xp hk.results, xdataWord_congr hk.results⟩

/-- Settles O39, by the cases of a step: WRITE_PBUF alone changes PBUF. -/
theorem blockNeverWritesPbuf : Obligations.BlockNeverWritesPbuf := fun _ _ h hw =>
  byteAt_of_pbuf (step_pbuf_of_not_writePbuf h hw)

end Sys2Proof
end

section
/-! The command word: a word as the sum of its fields, the fields of a packed word, and what decoding and encoding
leave of them (30_encoding R120 to R126). -/

namespace Sys2Proof
open Sys2Proof.Machine

/-! ### A word and its fields -/

/-- The fields of R120, RSVD with them, cover the word. -/
theorem commandWord_toNat_eq_sum (c : CommandWord) :
    c.toNat = (baseField c).toNat * 2 ^ 48 + (lenField c).toNat * 2 ^ 32 + (wordField c).toNat * 2 ^ 16 +
      (rsvdField c).toNat * 2 ^ 3 + (opField c).toNat := by
  rw [baseField_toNat, lenField_toNat, wordField_toNat, rsvdField_toNat, opField_toNat]
  omega

section
variable (base len word : Half) (op : BitVec 3)

@[simp] theorem opField_packCommand : opField (packCommand base len word op) = op :=
  Laws.Opcode.packCommand_op base len word op

@[simp] theorem rsvdField_packCommand : rsvdField (packCommand base len word op) = 0 :=
  Laws.Opcode.packCommand_rsvd base len word op

@[simp] theorem wordField_packCommand : wordField (packCommand base len word op) = word := by
  apply BitVec.eq_of_toNat_eq
  rw [wordField_toNat, packCommand_toNat]
  omega

@[simp] theorem lenField_packCommand : lenField (packCommand base len word op) = len := by
  apply BitVec.eq_of_toNat_eq
  rw [lenField_toNat, packCommand_toNat]
  omega

@[simp] theorem baseField_packCommand : baseField (packCommand base len word op) = base := by
  apply BitVec.eq_of_toNat_eq
  rw [baseField_toNat, packCommand_toNat]
  omega

/-- A word is packed from four fields exactly when these are its fields and RSVD is 0. -/
theorem packCommand_eq_iff (c : CommandWord) :
    packCommand base len word op = c ↔
      rsvdField c = 0 ∧ opField c = op ∧ wordField c = word ∧ lenField c = len ∧ baseField c = base := by
  constructor
  · rintro rfl
    simp
  · rintro ⟨hr, rfl, rfl, rfl, rfl⟩
    apply BitVec.eq_of_toNat_eq
    rw [packCommand_toNat, commandWord_toNat_eq_sum c, hr]
    simp

theorem decode_packCommand : decode (packCommand base len word op) = decodeFields op word len base := by
  simp [decode]

end

/-! ### The fields a command uses and those it ignores -/

/-- The parse ops by name (30_encoding R121). -/
theorem eq_of_isParseOp {op : BitVec 3} (h : isParseOp op = true) : op = 0b000#3 ∨ op = 0b001#3 := by
  simpa [isParseOp] using h

theorem decodeFields_of_isParseOp {op : BitVec 3} (h : isParseOp op = true) (word len base : Half) :
    decodeFields op word len base = .parseHeader base len ∨
      decodeFields op word len base = .parseExtension base len := by
  rcases eq_of_isParseOp h with rfl | rfl
  · exact .inl rfl
  · exact .inr rfl

/-- The assembler's word of a decoded parse command keeps BASE and LEN and writes WORD as 0. -/
theorem encode_decode_of_isParseOp {c : CommandWord} (h : isParseOp (opField c) = true) :
    encode (decode c) = packCommand (baseField c) (lenField c) 0 (opField c) := by
  unfold decode
  rcases eq_of_isParseOp h with hop | hop <;> rw [hop] <;> rfl

/-- The assembler's word of a decoded INFO_* command keeps WORD and writes LEN and BASE as 0. -/
theorem encode_decode_of_not_isParseOp {c : CommandWord} (h : isParseOp (opField c) = false) :
    encode (decode c) = packCommand 0 0 (wordField c) (opField c) := by
  unfold decode
  generalize opField c = op at h
  unfold decodeFields
  split
  · cases h
  · cases h
  all_goals rfl

end Sys2Proof

namespace Sys2Proof.Machine

/-! ### Accepting and completing words of one command -/

theorem op_eq_of_instr_eq {l m : Latch} (h : l.instr = m.instr) : l.op = m.op :=
  calc l.op = l.instr.op := (op_instr l).symm
    _ = m.instr.op := by rw [h]
    _ = m.op := op_instr m

/-- The range check looks at the command, not at the fields it ignores (60_exceptions R241). -/
theorem rangeBroken_eq_of_instr_eq {l m : Latch} (h : l.instr = m.instr) (cfg : Config) :
    rangeBroken cfg l = rangeBroken cfg m := by
  have hop := op_eq_of_instr_eq h
  rw [Bool.eq_iff_iff, rangeBroken_iff, rangeBroken_iff]
  cases hp : isParseOp l.op with
  | false => simp [← hop, hp]
  | true =>
    have hparse : l.instr = .parseHeader l.base l.len ∨ l.instr = .parseExtension l.base l.len :=
      decodeFields_of_isParseOp hp l.word l.len l.base
    rw [h] at hparse
    obtain ⟨hpm, hbase, hlen⟩ := instr_eq_parse hparse
    simp only [hpm, hbase, hlen]

/-- Accepting another word of the same command changes the latch alone. -/
theorem accept_eq_of_decode_eq {c d : CommandWord} (h : decode c = decode d) (s : State) :
    s.accept d = { s.accept c with cmd := Latch.ofWord d } := by
  have hi : (Latch.ofWord c).instr = (Latch.ofWord d).instr := h
  have hop : opField c = opField d := op_eq_of_instr_eq hi
  simp only [State.accept, hop, rangeBroken_eq_of_instr_eq hi]

/-- The latch is no input of a command's meaning, and no output. -/
theorem exec_withLatch {i : Instr} {s t : State} (h : exec i s = .next t) (l : Latch) :
    exec i { s with cmd := l } = .next { t with cmd := l } := by
  have hs : ({ s with cmd := l } : State).specifiedFor i = s.specifiedFor i := by cases i <;> rfl
  cases hi : s.specifiedFor i with
  | true =>
    rw [exec_of_specifiedFor hi] at h
    cases h
    exact exec_of_specifiedFor (hs.trans hi)
  | false =>
    rw [exec_of_not_specifiedFor hi] at h
    cases h
    exact exec_of_not_specifiedFor (hs.trans hi)

/-- The latch has no RSVD: the other fields are OP and bits [63:16] (30_encoding R123). -/
theorem ofWord_eq_of_op_of_high {c d : CommandWord} (hop : c.toNat % 8 = d.toNat % 8)
    (hbits : c.toNat / 2 ^ 16 = d.toNat / 2 ^ 16) : Latch.ofWord c = Latch.ofWord d := by
  have hhigh (k : Nat) : c.toNat / 2 ^ (16 + k) = d.toNat / 2 ^ (16 + k) := by
    rw [pow_add, ← Nat.div_div_eq_div_mul, hbits, Nat.div_div_eq_div_mul]
  simp only [Latch.ofWord, Latch.mk.injEq, ← BitVec.toNat_inj, opField_toNat, wordField_toNat, lenField_toNat,
    baseField_toNat]
  exact ⟨hop, congrArg (· % 2 ^ 16) hbits, congrArg (· % 2 ^ 16) (hhigh 16), hhigh 32⟩

end Sys2Proof.Machine

namespace Sys2Proof
open Sys2Proof.Machine

/-- Settles O2: the fields of a packed word are those it was packed from. -/
theorem decodeEncodeRoundTrip : Obligations.DecodeEncodeRoundTrip := by
  intro i
  cases i <;> exact decode_packCommand ..

/-- Settles O3: decoding and assembling a word keeps the fields its command uses and clears all others. -/
theorem assembledWordsHaveIgnoredFieldsZero : Obligations.AssembledWordsHaveIgnoredFieldsZero := by
  intro c
  unfold Canonical
  cases h : isParseOp (opField c) with
  | true =>
    rw [encode_decode_of_isParseOp h, packCommand_eq_iff]
    simp
  | false =>
    rw [encode_decode_of_not_isParseOp h, packCommand_eq_iff]
    simp

/-- Settles O4: the fields of R120 as numbers, and the operation map at each OP. -/
theorem opSelectsTheCommand : Obligations.OpSelectsTheCommand := by
  intro c base len word
  have hbase : baseField c = base := BitVec.eq_of_toNat_eq (by
    rw [baseField_toNat, BitVec.toNat_ofNat]
    omega)
  have hlen : lenField c = len := BitVec.eq_of_toNat_eq (by rw [lenField_toNat, BitVec.toNat_ofNat, Nat.mod_mod])
  have hword : wordField c = word := BitVec.eq_of_toNat_eq (by rw [wordField_toNat, BitVec.toNat_ofNat, Nat.mod_mod])
  have decode_at (op : BitVec 3) (h : c.toNat % 8 = op.toNat) : decode c = decodeFields op word len base := by
    have hop : opField c = op := BitVec.eq_of_toNat_eq ((opField_toNat c).trans h)
    rw [decode, hop, hword, hlen, hbase]
  exact ⟨decode_at 0, decode_at 1, decode_at 2, decode_at 3, decode_at 4, decode_at 5, decode_at 6, decode_at 7⟩

/-- Settles O5: the packed word as a number, with the fields the command ignores 0. -/
theorem assembledWordIsTheSpecsNumber : Obligations.AssembledWordIsTheSpecsNumber := by
  intro base len word
  have parse (op : BitVec 3) :
      (packCommand base len 0 op).toNat = base.toNat * 2 ^ 48 + len.toNat * 2 ^ 32 + op.toNat := by
    simp [packCommand_toNat]
  have info (op : BitVec 3) : (packCommand 0 0 word op).toNat = word.toNat * 2 ^ 16 + op.toNat := by
    simp [packCommand_toNat]
  exact ⟨parse 0, parse 1, info 2, info 3, info 4, info 5, info 6, info 7⟩

/-- Settles O6: such words leave one latch, and a word acts through its latch alone. -/
theorem reservedBitsChangeNothing : Obligations.ReservedBitsChangeNothing := by
  constructor
  · intro c d hop hbits
    have hlatch := ofWord_eq_of_op_of_high hop hbits
    have hdecode : decode c = decode d := congrArg Latch.instr hlatch
    refine ⟨hdecode, fun s rest hb => ?_⟩
    have hissue (w : CommandWord) :
        step { s with turns := .issue w :: rest } = .next ((s.afterTurn rest).accept w) := step_issue hb rfl
    rw [hissue, hissue, accept_eq_of_decode_eq hdecode, ← hlatch]
    rfl
  · intro i
    cases i <;> exact rsvdField_packCommand ..

/-- Settles O7: the two accepted states differ in the latch alone, which the command's meaning neither reads nor
writes. -/
theorem ignoredOperandsHaveNoEffect : Obligations.IgnoredOperandsHaveNoEffect := by
  intro c d s h
  obtain ⟨x, k, ht⟩ := exec_next (decode c) (s.accept c)
  have hu := exec_withLatch ht (Latch.ofWord d)
  rw [← accept_eq_of_decode_eq h, h] at hu
  exact ⟨_, _, ht, hu, rfl⟩

/-- Settles O1, by running the decoder on the eleven words. -/
theorem sampleCommandWordsDecode : Obligations.SampleCommandWordsDecode := by
  unfold Obligations.SampleCommandWordsDecode
  decide

end Sys2Proof
end

section
/-! The info word: its six fields as shifts and masks, the word as the sum of its fields, and the completion of the
INFO_* commands (40_info_extract R140 to R154). -/

namespace Sys2Proof.Machine

/-! ### The fields as numbers -/

/-- `n` bits from bit `i` up are a shift by `i` and a mask of `n` ones. -/
theorem extractLsb'_toNat_eq_shift_mask {k : Nat} (w : BitVec k) (i n : Nat) :
    (w.extractLsb' i n).toNat = w.toNat >>> i &&& (2 ^ n - 1) := by
  rw [BitVec.extractLsb'_toNat, Nat.and_two_pow_sub_one_eq_mod]

section
variable (w : Half)

theorem version_toNat : (version w).toNat = w.toNat >>> 14 &&& 0x3 := extractLsb'_toNat_eq_shift_mask w 14 2
theorem padding_toNat : (padding w).toNat = w.toNat >>> 13 &&& 0x1 := extractLsb'_toNat_eq_shift_mask w 13 1
theorem extension_toNat : (extension w).toNat = w.toNat >>> 12 &&& 0x1 := extractLsb'_toNat_eq_shift_mask w 12 1
theorem csrcCount_toNat : (csrcCount w).toNat = w.toNat >>> 8 &&& 0xF := extractLsb'_toNat_eq_shift_mask w 8 4
theorem marker_toNat : (marker w).toNat = w.toNat >>> 7 &&& 0x1 := extractLsb'_toNat_eq_shift_mask w 7 1
theorem payloadType_toNat : (payloadType w).toNat = w.toNat &&& 0x7F := extractLsb'_toNat_eq_shift_mask w 0 7

end

/-! ### The word and its fields -/

/-- Appending `m` bits moves the bits before them up by their weight. -/
theorem toNat_append_eq_sum {n m : Nat} (x : BitVec n) (y : BitVec m) :
    (x ++ y).toNat = x.toNat * 2 ^ m + y.toNat := by
  rw [BitVec.toNat_append, ← Nat.shiftLeft_add_eq_or_of_lt y.isLt, Nat.shiftLeft_eq]

/-- The word as the weighted sum of its fields: each field begins where the one below it ends. -/
theorem infoWord_toNat_eq_sum (w : Half) :
    w.toNat = (version w).toNat * 2 ^ 14 + (padding w).toNat * 2 ^ 13 + (extension w).toNat * 2 ^ 12 +
      (csrcCount w).toNat * 2 ^ 8 + (marker w).toNat * 2 ^ 7 + (payloadType w).toNat := by
  have hw := w.isLt
  simp only [version, padding, extension, csrcCount, marker, payloadType, BitVec.extractLsb'_toNat,
    Nat.shiftRight_eq_div_pow]
  omega

/-- Six fields with the word for their weighted sum are its fields: the sum leaves each the places its width fills. -/
theorem infoFields_eq_of_toNat_eq_sum {v : BitVec 2} {p x : BitVec 1} {cc : BitVec 4} {m : BitVec 1} {pt : BitVec 7}
    {w : Half}
    (h : w.toNat = v.toNat * 2 ^ 14 + p.toNat * 2 ^ 13 + x.toNat * 2 ^ 12 + cc.toNat * 2 ^ 8 + m.toNat * 2 ^ 7 +
      pt.toNat) :
    version w = v ∧ padding w = p ∧ extension w = x ∧ csrcCount w = cc ∧ marker w = m ∧ payloadType w = pt := by
  have hw := infoWord_toNat_eq_sum w
  simp only [← BitVec.toNat_inj]
  omega

/-! ### The INFO_* commands -/

/-- The field outcome whose 7 bits are the number `n` writes `n`. -/
theorem complete_field (s : State) {f : BitVec 7} {n : Nat} (h : f.toNat = n) :
    FieldWritten n s (s.complete (Completion.field f)) where
  code := rfl
  xp := rfl
  results := by simp [← h]
  reads := by
    subst h
    exact congrArg some (BitVec.ofNat_toNat 32 f).symm
  frame := complete_frame_plain s _

/-- An INFO_* command with the number `k` for its word and a field of value `n` for its outcome does what R149 to R154
say. -/
theorem info_completes {i : Instr} {s : State} {f : BitVec 7} {k n : Nat} (hword : (encode i).toNat = k)
    (hexec : exec i s = .next (s.complete (Completion.field f))) (hf : f.toNat = n) :
    encode i = BitVec.ofNat 64 k ∧ ∃ t, exec i s = .next t ∧ FieldWritten n s t :=
  ⟨by simp [← hword], _, hexec, complete_field s hf⟩

end Sys2Proof.Machine

namespace Sys2Proof
open Sys2Proof.Machine

/-- Settles O8: each field is a run of bits, so a shift and a mask. -/
theorem infoFieldsAreShiftsAndMasks : Obligations.InfoFieldsAreShiftsAndMasks := fun w =>
  ⟨version_toNat w, padding_toNat w, extension_toNat w, csrcCount_toNat w, marker_toNat w, payloadType_toNat w⟩

/-- Settles O9: the word is the weighted sum of its fields, and of no others. -/
theorem infoFieldsPartitionTheWord : Obligations.InfoFieldsPartitionTheWord := by
  refine ⟨infoWord_toNat_eq_sum, ?_⟩
  rintro v p x cc m pt _ rfl
  apply infoFields_eq_of_toNat_eq_sum
  simp only [toNat_append_eq_sum]
  omega

/-- Settles O10: each command's word is the number of R126, its outcome is its field widened to 7 bits, and widening
keeps the field's number. -/
theorem infoCommandsWriteTheirField : Obligations.InfoCommandsWriteTheirField := by
  intro w s
  obtain ⟨-, -, hversion, hpadding, hextension, hcsrcCount, hmarker, hpayloadType⟩ :=
    assembledWordIsTheSpecsNumber 0 0 w
  have widened {b : Nat} {x : BitVec b} {n : Nat} (hb : b ≤ 7) (hx : x.toNat = n) : (x.setWidth 7).toNat = n :=
    (BitVec.toNat_setWidth_of_le hb).trans hx
  exact ⟨info_completes hversion (exec_of_specifiedFor rfl) (widened (by decide) (version_toNat w)),
    info_completes hpadding (exec_of_specifiedFor rfl) (widened (by decide) (padding_toNat w)),
    info_completes hextension (exec_of_specifiedFor rfl) (widened (by decide) (extension_toNat w)),
    info_completes hcsrcCount (exec_of_specifiedFor rfl) (widened (by decide) (csrcCount_toNat w)),
    info_completes hmarker (exec_of_specifiedFor rfl) (widened (by decide) (marker_toNat w)),
    info_completes hpayloadType (exec_of_specifiedFor rfl) (payloadType_toNat w)⟩

end Sys2Proof
end

section
/-! What the two decoders read, apart from whether it fits: the block and the header that begin at an address, and how
many bytes each covers. A parse succeeds exactly when these bytes fit its buffer, and answers what was read
(41_header_parse R181, R186; 42_extension_parse R206, R211). -/

namespace Sys2Proof.Machine

/-! ### The extension block -/

/-- The extension block that begins at `a` (42_extension_parse R201 to R204). -/
def extAt (rd : Nat → Byte) (a : Nat) : ExtBlock :=
  { id := be16 rd a, ehl := be16 rd (a + 2), data := readWords rd (a + 4) (be16 rd (a + 2)).toNat }

/-- The bytes the extension block at `a` covers (42_extension_parse R211). -/
def extSize (rd : Nat → Byte) (a : Nat) : Nat := 4 + 4 * (be16 rd (a + 2)).toNat

@[simp] theorem length_extAt_data (rd : Nat → Byte) (a : Nat) : (extAt rd a).data.length = (extAt rd a).ehl.toNat :=
  length_readWords ..

theorem extSize_eq (rd : Nat → Byte) (a : Nat) : extSize rd a = 4 + 4 * (extAt rd a).ehl.toNat := rfl

/-- ExtDecode succeeds exactly on a buffer that holds the block, with the block. -/
theorem extDecode_eq_ok_iff {rd : Nat → Byte} {a n : Nat} {x : ExtBlock} :
    extDecode rd a n = .ok x ↔ extSize rd a ≤ n ∧ x = extAt rd a := by
  unfold extSize
  rcases extDecode_cases rd a n with ⟨_, e⟩ | ⟨_, _, e⟩ | ⟨_, _, e⟩ <;> rw [e]
  · simp; omega
  · simp; omega
  · have hfit : 4 + 4 * (be16 rd (a + 2)).toNat ≤ n := by omega
    simpa [hfit, extAt] using eq_comm

/-- A block whose pair fits and whose data do not is InsufficientExtensionData (42_extension_parse R203). -/
theorem extDecode_of_data_short {rd : Nat → Byte} {a n : Nat} (h4 : 4 ≤ n) (h : n < extSize rd a) :
    extDecode rd a n = .error .insufficientExtensionData := by
  unfold extSize at h
  rw [extDecode, if_neg (by omega), if_pos (by omega)]

/-! ### The header -/

/-- The extension block of the header at `b`, present exactly when X = 1 (41_header_parse R180). -/
def headerExt (rd : Nat → Byte) (b : Nat) : Option ExtBlock :=
  if extension (be16 rd b) = 1#1 then some (extAt rd (b + afterCsrc rd b)) else none

/-- The header that begins at `b` (41_header_parse R171 to R182). -/
def headerAt (rd : Nat → Byte) (b : Nat) : HeaderBlock := headerFields rd b (headerExt rd b)

/-- The bytes the header at `b` covers, its extension block included (41_header_parse R186). -/
def headerSize (rd : Nat → Byte) (b : Nat) : Nat :=
  afterCsrc rd b + if extension (be16 rd b) = 1#1 then extSize rd (b + afterCsrc rd b) else 0

section
variable {rd : Nat → Byte} {b l : Nat}

theorem headerExt_of_extension (hx : extension (be16 rd b) = 1#1) :
    headerExt rd b = some (extAt rd (b + afterCsrc rd b)) := if_pos hx

theorem headerExt_of_no_extension (hx : extension (be16 rd b) ≠ 1#1) : headerExt rd b = none := if_neg hx

theorem headerSize_of_extension (hx : extension (be16 rd b) = 1#1) :
    headerSize rd b = afterCsrc rd b + extSize rd (b + afterCsrc rd b) := by
  rw [headerSize, if_pos hx]

theorem headerSize_of_no_extension (hx : extension (be16 rd b) ≠ 1#1) : headerSize rd b = afterCsrc rd b := by
  rw [headerSize, if_neg hx, Nat.add_zero]

theorem afterCsrc_le_headerSize (rd : Nat → Byte) (b : Nat) : afterCsrc rd b ≤ headerSize rd b := Nat.le_add_right ..

theorem headerDecode_of_lt_twelve (h : l < 12) : headerDecode rd b l = .error .headerTooSmall := if_pos h

/-- An error of the extension decode is the header's (41_header_parse R180). -/
theorem headerDecode_of_extDecode_error {e : ParseError} (hl : afterCsrc rd b ≤ l) (hx : extension (be16 rd b) = 1#1)
    (he : extDecode rd (b + afterCsrc rd b) (l - afterCsrc rd b) = .error e) : headerDecode rd b l = .error e := by
  have hcsrc : 12 + 4 * (csrcCount (be16 rd b)).toNat ≤ l := hl
  rw [headerDecode, if_neg (by omega), if_neg (by omega), if_pos hx, he]

/-- InsufficientCsrcData is the failing of the CSRC check and of no other: ExtDecode never answers it. -/
theorem headerDecode_eq_insufficientCsrcData_iff :
    headerDecode rd b l = .error .insufficientCsrcData ↔ 12 ≤ l ∧ l - 12 < 4 * (csrcCount (be16 rd b)).toNat := by
  have hfits (h : afterCsrc rd b ≤ l) : ¬ l - 12 < 4 * (csrcCount (be16 rd b)).toNat := by
    unfold afterCsrc at h
    omega
  rcases headerDecode_cases rd b l with ⟨h, e⟩ | ⟨h, hcc, e⟩ | ⟨h, _, e⟩ | ⟨h, _, ⟨d, hd, e⟩ | ⟨x, _, e⟩⟩ <;> rw [e]
  · simp; omega
  · simp [h, hcc]
  · simp [hfits h]
  · have hne : d ≠ .insufficientCsrcData := by
      rintro rfl
      rcases extDecode_cases rd (b + afterCsrc rd b) (l - afterCsrc rd b) with ⟨_, e⟩ | ⟨_, _, e⟩ | ⟨_, _, e⟩ <;>
        rw [e] at hd <;> cases hd
    simp [hfits h, hne]
  · simp [hfits h]

/-- The header parse succeeds exactly on a buffer that holds the header, with the header. -/
theorem headerDecode_eq_ok_iff {h : HeaderBlock} :
    headerDecode rd b l = .ok h ↔ headerSize rd b ≤ l ∧ h = headerAt rd b := by
  have hsize := afterCsrc_le_headerSize rd b
  have hafter : afterCsrc rd b = 12 + 4 * (csrcCount (be16 rd b)).toNat := rfl
  rcases headerDecode_cases rd b l with ⟨_, e⟩ | ⟨_, _, e⟩ | ⟨hl, hx, e⟩ | ⟨hl, hx, ⟨d, hd, e⟩ | ⟨x, hd, e⟩⟩ <;> rw [e]
  · simp; omega
  · simp; omega
  · simpa [headerSize_of_no_extension hx, hl, headerAt, headerExt_of_no_extension hx] using eq_comm
  · have hshort : ¬ extSize rd (b + afterCsrc rd b) ≤ l - afterCsrc rd b := fun hfit => by
      rw [extDecode_eq_ok_iff.2 ⟨hfit, rfl⟩] at hd
      cases hd
    simp [headerSize_of_extension hx]; omega
  · obtain ⟨hfit, rfl⟩ := extDecode_eq_ok_iff.1 hd
    have hle : headerSize rd b ≤ l := by rw [headerSize_of_extension hx]; omega
    simpa [hle, headerAt, headerExt_of_extension hx] using eq_comm

end

/-! ### The outcomes -/

/-- The result words of a header in one equation: the extension words are the block's, where there is one. -/
theorem ofHeader_eq (h : HeaderBlock) :
    Results.ofHeader h = { Results.ofFields h with
      resExtId := h.ext.map (·.id), resExtLen := h.ext.map (·.ehl), xdata := (h.ext.map (·.data)).getD [] } := by
  cases he : h.ext <;> simp only [Results.ofHeader, he] <;> rfl

theorem ofHeader_code_eq_error_iff {r : Except ParseError HeaderBlock} {e : ParseError} :
    (Completion.ofHeader r).code = .error e ↔ r = .error e := by
  cases r <;> simp [Completion.ofHeader]

section
variable {b l : Half} {s t : State} (hz : s.hazard = false) (hr : b.toNat + l.toNat ≤ s.config.pbufBytes)
include hz hr

theorem exec_parseHeader_of_error {e : ParseError} (hd : headerDecode s.byteAt b.toNat l.toNat = .error e) :
    exec (.parseHeader b l) s = .next (s.complete (Completion.failed e)) := by
  rw [exec_parseHeader hz hr, hd]; rfl

theorem exec_parseExtension_of_error {e : ParseError} (hd : extDecode s.byteAt b.toNat l.toNat = .error e) :
    exec (.parseExtension b l) s = .next (s.complete (Completion.failed e)) := by
  rw [exec_parseExtension hz hr, hd]; rfl

/-- PARSE_HEADER ends well in `t` exactly when the header fits, and `t` then does not depend on the length. -/
theorem exec_parseHeader_ok_iff :
    exec (.parseHeader b l) s = .next t ∧ t.code = .ok ↔
      headerSize s.byteAt b.toNat ≤ l.toNat ∧
        t = s.complete (Completion.ofHeader (.ok (headerAt s.byteAt b.toNat))) := by
  constructor
  · rintro ⟨h, hcode⟩
    cases hd : headerDecode s.byteAt b.toNat l.toNat with
    | error e => rw [exec_parseHeader_of_error hz hr hd] at h; cases h; cases hcode
    | ok x =>
      rw [exec_parseHeader hz hr, hd] at h
      obtain ⟨hfit, rfl⟩ := headerDecode_eq_ok_iff.1 hd
      cases h
      exact ⟨hfit, rfl⟩
  · rintro ⟨hfit, rfl⟩
    rw [exec_parseHeader hz hr, headerDecode_eq_ok_iff.2 ⟨hfit, rfl⟩]
    exact ⟨rfl, rfl⟩

/-- PARSE_EXTENSION ends well in `t` exactly when the block fits, and `t` then does not depend on the length. -/
theorem exec_parseExtension_ok_iff :
    exec (.parseExtension b l) s = .next t ∧ t.code = .ok ↔
      extSize s.byteAt b.toNat ≤ l.toNat ∧ t = s.complete (Completion.ofExt (.ok (extAt s.byteAt b.toNat))) := by
  constructor
  · rintro ⟨h, hcode⟩
    cases hd : extDecode s.byteAt b.toNat l.toNat with
    | error e => rw [exec_parseExtension_of_error hz hr hd] at h; cases h; cases hcode
    | ok x =>
      rw [exec_parseExtension hz hr, hd] at h
      obtain ⟨hfit, rfl⟩ := extDecode_eq_ok_iff.1 hd
      cases h
      exact ⟨hfit, rfl⟩
  · rintro ⟨hfit, rfl⟩
    rw [exec_parseExtension hz hr, extDecode_eq_ok_iff.2 ⟨hfit, rfl⟩]
    exact ⟨rfl, rfl⟩

end

/-- What a header covers, said by the state its parse leaves: XP and the words of XDATA. -/
theorem headerSize_eq_of_complete {rd : Nat → Byte} {b : Nat} {s t : State}
    (ht : t = s.complete (Completion.ofHeader (.ok (headerAt rd b)))) :
    headerSize rd b = afterCsrc rd b + if t.xp then 4 + 4 * t.results.xdata.length else 0 := by
  subst ht
  simp only [complete_xp, complete_results, Completion.ofHeader, ofHeader_eq]
  by_cases hx : extension (be16 rd b) = 1#1
  · simp [headerSize_of_extension hx, headerAt, headerFields, headerExt_of_extension hx, extSize_eq]
  · simp [headerSize_of_no_extension hx, headerAt, headerFields, headerExt_of_no_extension hx]

/-- XP = 0 after a successful header parse says that XDATA holds no word (10_state R35). -/
theorem xdata_eq_nil_of_complete_no_xp {h : HeaderBlock} {s t : State}
    (ht : t = s.complete (Completion.ofHeader (.ok h))) (hx : t.xp = false) : t.results.xdata = [] := by
  subst ht
  have hext : h.ext = none := by simpa [Completion.ofHeader] using hx
  simp [Completion.ofHeader, ofHeader_eq, hext]

end Sys2Proof.Machine

namespace Sys2Proof
open Sys2Proof.Machine

/-- Settles O13: the length check comes first and reads no byte. -/
theorem shortBufferIsHeaderTooSmall : Obligations.ShortBufferIsHeaderTooSmall := fun _ _ s hz hr hl =>
  ⟨_, exec_parseHeader_of_error hz hr (headerDecode_of_lt_twelve hl), complete_failed s _⟩

/-- Settles O14: the CSRC check alone answers InsufficientCsrcData, and CC is at most 15. -/
theorem missingCsrcWordsAreInsufficientCsrcData : Obligations.MissingCsrcWordsAreInsufficientCsrcData := by
  intro b l s hz hr cc
  constructor
  · intro hl hshort
    have hd := headerDecode_eq_insufficientCsrcData_iff.2 ⟨hl, hshort⟩
    exact ⟨_, exec_parseHeader_of_error hz hr hd, complete_failed s _⟩
  · intro t h hcode
    rw [exec_parseHeader hz hr] at h
    cases h
    obtain ⟨hl, hshort⟩ := headerDecode_eq_insufficientCsrcData_iff.1 (ofHeader_code_eq_error_iff.1 hcode)
    have hcc : cc < 16 := (csrcCount (be16 s.byteAt b.toNat)).isLt
    change l.toNat - 12 < 4 * cc at hshort
    omega

/-- Settles O17: the header that fits is the header the parse commits. -/
theorem parseHeaderCommitsTheHeader : Obligations.ParseHeaderCommitsTheHeader := by
  intro b l s hz hr info cc e ehl hcsrc hext
  have he : e = b.toNat + afterCsrc s.byteAt b.toNat := Nat.add_assoc ..
  have hfit : headerSize s.byteAt b.toNat ≤ l.toNat := by
    by_cases hx : extension info = 1#1
    · have := hext hx
      rw [headerSize_of_extension hx, ← he]
      change 12 + 4 * cc + (4 + 4 * ehl) ≤ l.toNat
      omega
    · rw [headerSize_of_no_extension hx]
      exact hcsrc
  obtain ⟨hexec, hok⟩ := (exec_parseHeader_ok_iff hz hr).2 ⟨hfit, rfl⟩
  refine ⟨_, hexec, complete_frame_plain s _, hok, ?_⟩
  simp only [complete_results, complete_xp, Completion.ofHeader, ofHeader_eq]
  refine ⟨rfl, rfl, rfl, rfl, fun i => ?_, rfl, fun hx => ?_, fun hx => ?_⟩
  · exact (getElem_csrcFile ..).trans (getElem?_readWords ..)
  · have hb : (headerAt s.byteAt b.toNat).ext = some (extAt s.byteAt e) := he ▸ headerExt_of_extension hx
    rw [hb]
    exact ⟨rfl, rfl, rfl, length_readWords .., fun j hj => (getElem?_readWords ..).trans (if_pos hj)⟩
  · have hb : (headerAt s.byteAt b.toNat).ext = none := headerExt_of_no_extension hx
    rw [hb]
    exact ⟨rfl, rfl, rfl, rfl⟩

/-- Settles O21: a successful parse ends in the state given by the header, or the block, whatever the length. -/
theorem trailingBytesAreIgnored : Obligations.TrailingBytesAreIgnored := by
  intro b l m s t hz hrl hrm hcode
  constructor
  · intro h hfit
    obtain ⟨-, ht⟩ := (exec_parseHeader_ok_iff hz hrl).1 ⟨h, hcode⟩
    refine ((exec_parseHeader_ok_iff hz hrm).2 ⟨?_, ht⟩).1
    rw [headerSize_eq_of_complete ht, afterCsrc]
    cases hx : t.xp with
    | false => simpa [hx] using hfit
    | true => simpa [hx, Nat.add_assoc] using hfit
  · intro h hfit
    obtain ⟨-, ht⟩ := (exec_parseExtension_ok_iff hz hrl).1 ⟨h, hcode⟩
    refine ((exec_parseExtension_ok_iff hz hrm).2 ⟨?_, ht⟩).1
    subst ht
    simpa [Completion.ofExt, Results.withExt, extSize_eq] using hfit

/-- Settles O22: a success says that the header, or the block, fits; a block that fits 65535 bytes has at most 16382
data words, and behind a fixed header at most 16379. -/
theorem decodedHeadersFitTheirBuffer : Obligations.DecodedHeadersFitTheirBuffer := by
  intro b l s t hz hr
  have hl := l.isLt
  refine ⟨?_, ?_, ?_, ?_⟩
  · intro h hcode
    obtain ⟨hfit, ht⟩ := (exec_parseHeader_ok_iff hz hr).1 ⟨h, hcode⟩
    rw [headerSize_eq_of_complete ht, afterCsrc] at hfit
    refine ⟨be16 s.byteAt b.toNat, ht ▸ congrArg Results.resInfo (ofHeader_eq _), hfit, ?_⟩
    cases hx : t.xp with
    | false => simp [xdata_eq_nil_of_complete_no_xp ht hx]
    | true => rw [if_pos hx] at hfit; omega
  · intro h hcode
    obtain ⟨hfit, rfl⟩ := (exec_parseExtension_ok_iff hz hr).1 ⟨h, hcode⟩
    rw [extSize_eq] at hfit
    exact ⟨_, rfl, hfit, by omega, length_extAt_data ..⟩
  · intro h h4 hlong
    have hshort : l.toNat < extSize s.byteAt b.toNat := by unfold extSize; omega
    rw [exec_parseExtension_of_error hz hr (extDecode_of_data_short h4 hshort)] at h
    cases h
    exact complete_failed s _
  · intro e h hx hle hlong
    have hd : extDecode s.byteAt (b.toNat + e) (l.toNat - e) = .error .insufficientExtensionData :=
      extDecode_of_data_short (by omega) (by unfold extSize; omega)
    rw [exec_parseHeader_of_error hz hr (headerDecode_of_extDecode_error (Nat.le_of_add_right_le hle) hx hd)] at h
    cases h
    exact complete_failed s _

end Sys2Proof
end

section
/-! The wire format read back: bytes that stand in PBUF as 30_encoding R110 lays them out decode to the fields they were
made of (41_header_parse R187). -/

namespace Sys2Proof.Machine

@[simp] theorem length_halfBytes (v : Half) : (halfBytes v).length = 2 := rfl

@[simp] theorem length_wordBytes (v : Word) : (wordBytes v).length = 4 := rfl

@[simp] theorem length_flatMap_wordBytes (ws : List Word) : (ws.flatMap wordBytes).length = 4 * ws.length := by
  simp [Nat.mul_comm]

@[simp] theorem length_extBytes (id : Half) (data : List Word) : (extBytes id data).length = 4 + 4 * data.length := by
  simp only [extBytes, List.length_append, length_halfBytes, length_flatMap_wordBytes]

theorem readWords_succ (rd : Nat → Byte) (a n : Nat) :
    readWords rd a (n + 1) = be32 rd a :: readWords rd (a + 4) n := by
  simp [readWords, List.range_succ_eq_map, Nat.mul_add, Nat.add_assoc, Nat.add_comm 4]

/-! ### Bytes that stand at an address -/

/-- The bytes stand from `a` on. -/
def Stored (rd : Nat → Byte) (a : Nat) (bs : List Byte) : Prop := ∀ k (hk : k < bs.length), rd (a + k) = bs[k]

section
variable {rd : Nat → Byte} {a : Nat}

theorem stored_append {xs ys : List Byte} (h : Stored rd a (xs ++ ys)) :
    Stored rd a xs ∧ Stored rd (a + xs.length) ys := by
  constructor
  · intro k hk
    exact (h k (by simp; omega)).trans (List.getElem_append_left hk)
  · intro k hk
    rw [Nat.add_assoc, h (xs.length + k) (by simp; omega)]
    simp

/-- A 16-bit field reads back (20_memory R87). -/
theorem Stored.be16_eq {v : Half} (h : Stored rd a (halfBytes v)) : be16 rd a = v := by
  have h0 : rd a = v.extractLsb' 8 8 := h 0 (by simp)
  have h1 : rd (a + 1) = v.extractLsb' 0 8 := h 1 (by simp)
  apply BitVec.eq_of_toNat_eq
  rw [be16_toNat_eq_sum, h0, h1]
  simp only [BitVec.extractLsb'_toNat, Nat.shiftRight_eq_div_pow]
  omega

/-- A 32-bit field reads back. -/
theorem Stored.be32_eq {v : Word} (h : Stored rd a (wordBytes v)) : be32 rd a = v := by
  have h0 : rd a = v.extractLsb' 24 8 := h 0 (by simp)
  have h1 : rd (a + 1) = v.extractLsb' 16 8 := h 1 (by simp)
  have h2 : rd (a + 2) = v.extractLsb' 8 8 := h 2 (by simp)
  have h3 : rd (a + 3) = v.extractLsb' 0 8 := h 3 (by simp)
  apply BitVec.eq_of_toNat_eq
  rw [be32_toNat_eq_sum, h0, h1, h2, h3]
  simp only [BitVec.extractLsb'_toNat, Nat.shiftRight_eq_div_pow]
  omega

/-- Words laid out one after the other read back in order. -/
theorem Stored.readWords_eq {ws : List Word} (h : Stored rd a (ws.flatMap wordBytes)) :
    readWords rd a ws.length = ws := by
  induction ws generalizing a with
  | nil => rfl
  | cons w ws ih =>
    obtain ⟨hw, hws⟩ := stored_append h
    rw [List.length_cons, readWords_succ, hw.be32_eq]
    exact congrArg (w :: ·) (ih hws)

/-- An extension block reads back, and covers its bytes (30_encoding R114, R115). -/
theorem Stored.extAt_eq {id : Half} {data : List Word} (hlen : data.length ≤ 65535)
    (h : Stored rd a (extBytes id data)) :
    extAt rd a = ⟨id, BitVec.ofNat 16 data.length, data⟩ ∧ extSize rd a = (extBytes id data).length := by
  obtain ⟨hpair, hdata⟩ := stored_append h
  obtain ⟨hid, hlength⟩ := stored_append hpair
  have hehl : be16 rd (a + 2) = BitVec.ofNat 16 data.length := hlength.be16_eq
  have hcount : (be16 rd (a + 2)).toNat = data.length := by rw [hehl, BitVec.toNat_ofNat]; omega
  have hwords : readWords rd (a + 4) data.length = data := hdata.readWords_eq
  constructor
  · rw [extAt, hcount, hwords, hehl, hid.be16_eq]
  · rw [extSize, hcount, length_extBytes]

end

/-! ### A header that stands at an address -/

/-- The header as the parse answers it. -/
def WireHeader.block (h : WireHeader) : HeaderBlock :=
  { info := h.info, seq := h.seq, ts := h.ts, ssrc := h.ssrc, csrc := h.csrc,
    ext := h.ext.map fun x => ⟨x.1, BitVec.ofNat 16 x.2.length, x.2⟩ }

/-- The bytes before the extension block. -/
def WireHeader.fixedBytes (h : WireHeader) : List Byte :=
  halfBytes h.info ++ halfBytes h.seq ++ wordBytes h.ts ++ wordBytes h.ssrc ++ h.csrc.flatMap wordBytes

theorem length_fixedBytes (h : WireHeader) : h.fixedBytes.length = 12 + 4 * h.csrc.length := by
  simp only [WireHeader.fixedBytes, List.length_append, length_halfBytes, length_wordBytes, length_flatMap_wordBytes]

section
variable {h : WireHeader} {rd : Nat → Byte} {b : Nat}

theorem wireBytes_of_no_ext (hx : h.ext = none) : h.bytes = h.fixedBytes := by
  simp [WireHeader.bytes, WireHeader.fixedBytes, hx]

theorem wireBytes_of_ext {x : Half × List Word} (hx : h.ext = some x) : h.bytes = h.fixedBytes ++ extBytes x.1 x.2 := by
  simp [WireHeader.bytes, WireHeader.fixedBytes, hx]

/-- The fields of the info word are those it was put together from (40_info_extract R147). -/
theorem wireInfo_fields (h : WireHeader) :
    version h.info = h.version ∧ padding h.info = h.padding ∧ extension h.info = BitVec.ofBool h.ext.isSome ∧
      csrcCount h.info = BitVec.ofNat 4 h.csrc.length ∧ marker h.info = h.marker ∧ payloadType h.info = h.payloadType :=
  infoFieldsPartitionTheWord.2 _ _ _ _ _ _ _ rfl

theorem wireInfo_csrcCount (hw : h.WellFormed) : (csrcCount h.info).toNat = h.csrc.length := by
  obtain ⟨hcsrc, -⟩ := hw
  obtain ⟨-, -, -, hcc, -, -⟩ := wireInfo_fields h
  rw [hcc, BitVec.toNat_ofNat]
  omega

/-- The fields before the extension block read back, whatever block the parse then finds. -/
theorem headerFields_of_stored (hw : h.WellFormed) (hs : Stored rd b h.fixedBytes) (x : Option ExtBlock) :
    headerFields rd b x = { h.block with ext := x } := by
  obtain ⟨hs, hcsrc⟩ := stored_append hs
  obtain ⟨hs, hssrc⟩ := stored_append hs
  obtain ⟨hs, hts⟩ := stored_append hs
  obtain ⟨hinfo, hseq⟩ := stored_append hs
  have hwords : readWords rd (b + 12) h.csrc.length = h.csrc := hcsrc.readWords_eq
  have hseq' : be16 rd (b + 2) = h.seq := hseq.be16_eq
  have hts' : be32 rd (b + 4) = h.ts := hts.be32_eq
  have hssrc' : be32 rd (b + 8) = h.ssrc := hssrc.be32_eq
  rw [headerFields, hinfo.be16_eq, hseq', hts', hssrc', wireInfo_csrcCount hw, hwords, WireHeader.block]

/-- A header that stands at an address is the header the parse finds there, and covers its bytes. -/
theorem headerAt_of_stored (hw : h.WellFormed) (hs : Stored rd b h.bytes) :
    headerAt rd b = h.block ∧ headerSize rd b = h.bytes.length := by
  have hfixed : Stored rd b h.fixedBytes := by
    cases hx : h.ext with
    | none => rwa [wireBytes_of_no_ext hx] at hs
    | some x => rw [wireBytes_of_ext hx] at hs; exact (stored_append hs).1
  have hfields := headerFields_of_stored hw hfixed
  have hinfo : be16 rd b = h.info := congrArg HeaderBlock.info (hfields none)
  have hafter : afterCsrc rd b = h.fixedBytes.length := by
    rw [afterCsrc, hinfo, wireInfo_csrcCount hw, length_fixedBytes]
  obtain ⟨-, -, hext, -⟩ := wireInfo_fields h
  rw [← hinfo] at hext
  cases hx : h.ext with
  | none =>
    have hx0 : extension (be16 rd b) ≠ 1#1 := by rw [hext, hx]; decide
    rw [headerAt, headerExt_of_no_extension hx0, headerSize_of_no_extension hx0, hfields, hafter, wireBytes_of_no_ext hx]
    simp [WireHeader.block, hx]
  | some x =>
    have hx1 : extension (be16 rd b) = 1#1 := by rw [hext, hx]; rfl
    rw [wireBytes_of_ext hx] at hs
    obtain ⟨hblock, hsize⟩ := (stored_append hs).2.extAt_eq (hw.2 x hx)
    rw [headerAt, headerExt_of_extension hx1, headerSize_of_extension hx1, hfields, hafter, hblock, hsize,
      wireBytes_of_ext hx, List.length_append]
    simp [WireHeader.block, hx]

end

end Sys2Proof.Machine

namespace Sys2Proof
open Sys2Proof.Machine

/-- Settles O23: the header the parse finds is the one written, so the result words are its fields. -/
theorem writtenHeaderParsesBack : Obligations.WrittenHeaderParsesBack := by
  intro h b l s hw hz hr hlen hbytes
  obtain ⟨hblock, hsize⟩ := headerAt_of_stored hw hbytes
  obtain ⟨hexec, hok⟩ := (exec_parseHeader_ok_iff hz hr).2 ⟨hsize.trans_le hlen, rfl⟩
  obtain ⟨hversion, hpadding, hextension, -, hmarker, hpayload⟩ := wireInfo_fields h
  refine ⟨_, h.info, hexec, hok, ?_⟩
  simp only [complete_results, complete_xp, Completion.ofHeader, ofHeader_eq, hblock]
  refine ⟨rfl, hversion, hpadding, hextension, wireInfo_csrcCount hw, hmarker, hpayload, rfl, rfl, rfl,
    fun i => getElem_csrcFile .., ?_⟩
  cases hx : h.ext with
  | none => simp [WireHeader.block, hx, Results.ofFields, Results.noValue]
  | some x => simp [WireHeader.block, hx]

end Sys2Proof
end

section
/-! The extension block under the two parse commands: PARSE_EXTENSION's three cases, and PARSE_HEADER with X = 1, whose
outcome is that of the block behind its CSRC list (42_extension_parse R208, R210; 60_exceptions R239). -/

namespace Sys2Proof.Machine

/-- A buffer without the id and length pair is ExtensionHeaderMissing (42_extension_parse R200). -/
theorem extDecode_of_pair_short {rd : Nat → Byte} {a n : Nat} (h : n < 4) :
    extDecode rd a n = .error .extensionHeaderMissing := if_pos h

/-- With X = 1 and the CSRC list inside the buffer, the header parse answers what ExtDecode answers of the rest, the
header's fields around the block (41_header_parse R180, 42_extension_parse R208). -/
theorem headerDecode_of_extension {rd : Nat → Byte} {b l : Nat} (hl : afterCsrc rd b ≤ l)
    (hx : extension (be16 rd b) = 1#1) :
    headerDecode rd b l =
      (extDecode rd (b + afterCsrc rd b) (l - afterCsrc rd b)).map fun x => headerFields rd b (some x) := by
  cases hd : extDecode rd (b + afterCsrc rd b) (l - afterCsrc rd b) with
  | error e => exact headerDecode_of_extDecode_error hl hx hd
  | ok x =>
    obtain ⟨hfit, rfl⟩ := extDecode_eq_ok_iff.1 hd
    have hsize : headerSize rd b ≤ l := by rw [headerSize_of_extension hx]; omega
    exact headerDecode_eq_ok_iff.2 ⟨hsize, by rw [headerAt, headerExt_of_extension hx]⟩

/-- The header's fields around a block add no extension word and change neither CODE nor XP. -/
theorem ofHeader_map_headerFields (rd : Nat → Byte) (b : Nat) (r : Except ParseError ExtBlock) :
    let c := Completion.ofHeader (r.map fun x => headerFields rd b (some x))
    let d := Completion.ofExt r
    c.code = d.code ∧ c.xp = d.xp ∧ c.results.resExtId = d.results.resExtId ∧
      c.results.resExtLen = d.results.resExtLen ∧ c.results.xdata = d.results.xdata := by
  cases r with
  | error e => exact ⟨rfl, rfl, rfl, rfl, rfl⟩
  | ok x => exact ⟨rfl, rfl, rfl, rfl, rfl⟩

section
variable {b l : Half} {s : State} {e : ParseError} (hz : s.hazard = false)
  (hr : b.toNat + l.toNat ≤ s.config.pbufBytes)
include hz hr

theorem parseExtension_failedWith (hd : extDecode s.byteAt b.toNat l.toNat = .error e) :
    ∃ t, exec (.parseExtension b l) s = .next t ∧ FailedWith e s t :=
  ⟨_, exec_parseExtension_of_error hz hr hd, complete_failed s e⟩

/-- An error of the block behind the CSRC list is PARSE_HEADER's (60_exceptions R239). -/
theorem parseHeader_failedWith_of_extDecode (hl : afterCsrc s.byteAt b.toNat ≤ l.toNat)
    (hx : extension (be16 s.byteAt b.toNat) = 1#1)
    (hd : extDecode s.byteAt (b.toNat + afterCsrc s.byteAt b.toNat) (l.toNat - afterCsrc s.byteAt b.toNat) = .error e) :
    ∃ t, exec (.parseHeader b l) s = .next t ∧ FailedWith e s t :=
  ⟨_, exec_parseHeader_of_error hz hr (headerDecode_of_extDecode_error hl hx hd), complete_failed s e⟩

end

end Sys2Proof.Machine

namespace Sys2Proof
open Sys2Proof.Machine

/-- Settles O12: the two checks of ExtDecode fail as R200 and R203 say, and a block that fits is what is committed. -/
theorem parseExtensionDecodesTheBlock : Obligations.ParseExtensionDecodesTheBlock := by
  intro a n s hz hr ehl
  have hsize : extSize s.byteAt a.toNat = 4 + 4 * ehl := rfl
  refine ⟨fun hshort => ?_, fun h4 hshort => ?_, fun h4 hfit => ?_⟩
  · exact parseExtension_failedWith hz hr (extDecode_of_pair_short hshort)
  · exact parseExtension_failedWith hz hr (extDecode_of_data_short h4 (by omega))
  · obtain ⟨hexec, hok⟩ := (exec_parseExtension_ok_iff hz hr).2 ⟨by omega, rfl⟩
    have hblock : HoldsExtAt a.toNat ehl s (s.complete (Completion.ofExt (.ok (extAt s.byteAt a.toNat)))) :=
      ⟨rfl, rfl, length_readWords .., fun j hj => (getElem?_readWords ..).trans (if_pos hj)⟩
    exact ⟨_, hexec, complete_frame_plain s _, hok, rfl, hblock, rfl⟩

/-- Settles O15: PARSE_EXTENSION's errors are those of O12, and PARSE_HEADER's those of the block behind the CSRC
list. -/
theorem shortExtensionsAreReported : Obligations.ShortExtensionsAreReported := by
  intro b l s hz hr
  constructor
  · intro e hx hl
    constructor
    · intro hshort
      exact parseHeader_failedWith_of_extDecode hz hr hl hx (extDecode_of_pair_short hshort)
    · intro h4 hshort
      have hsize : l.toNat - e < extSize s.byteAt (b.toNat + e) := by unfold extSize; omega
      exact parseHeader_failedWith_of_extDecode hz hr hl hx (extDecode_of_data_short h4 hsize)
  · obtain ⟨hpair, hdata, -⟩ := parseExtensionDecodesTheBlock b l s hz hr
    exact ⟨hpair, hdata⟩

/-- Settles O19: the header's outcome is that of ExtDecode on the rest of the buffer, which PARSE_EXTENSION runs too
wherever a BASE names where the rest begins; at 65536 no byte is left. -/
theorem extensionErrorsPropagateUnchanged : Obligations.ExtensionErrorsPropagateUnchanged := by
  intro b l s hz hr hp e hx hl
  have he : e = afterCsrc s.byteAt b.toNat := rfl
  rw [exec_parseHeader hz hr, headerDecode_of_extension (he ▸ hl) hx]
  refine ⟨_, rfl, fun hend => ?_, fun hbase => ?_⟩
  · have hnone : l.toNat - afterCsrc s.byteAt b.toNat < 4 := by omega
    rw [extDecode_of_pair_short hnone]
    exact complete_failed s _
  · have hb : (BitVec.ofNat 16 (b.toNat + e)).toNat = b.toNat + e := Nat.mod_eq_of_lt hbase
    have hn : (BitVec.ofNat 16 (l.toNat - e)).toNat = l.toNat - e := Nat.mod_eq_of_lt (by omega)
    refine ⟨_, exec_parseExtension hz (by omega), ?_⟩
    rw [hb, hn]
    exact ofHeader_map_headerFields ..

end Sys2Proof
end

section
/-! Errors and FAULT (60_exceptions R235, R238, R241 to R243, R253): the code of each command's outcome, check by check,
the completion of a command whose results are not specified, and what an accept and an idle step leave of the state. -/

namespace Sys2Proof.Machine

/-! ### The code of an outcome, check by check -/

/-- ExtDecode's checks in their order, the data check with the length of the pair on its right side. -/
theorem ofExt_extDecode_code (rd : Nat → Byte) (a n : Nat) :
    (Completion.ofExt (extDecode rd a n)).code =
      if n < 4 then .error .extensionHeaderMissing
      else if n < extSize rd a then .error .insufficientExtensionData
      else .ok := by
  by_cases hpair : n < 4
  · rw [extDecode_of_pair_short hpair, if_pos hpair]
    rfl
  · rw [if_neg hpair]
    by_cases hdata : n < extSize rd a
    · rw [extDecode_of_data_short (Nat.le_of_not_lt hpair) hdata, if_pos hdata]
      rfl
    · rw [extDecode_eq_ok_iff.2 ⟨Nat.le_of_not_lt hdata, rfl⟩, if_neg hdata]
      rfl

/-- With X = 1 and the CSRC list inside the buffer, the code is that of ExtDecode on the rest (60_exceptions R239). -/
theorem ofHeader_headerDecode_code_of_extension {rd : Nat → Byte} {b l : Nat} (hl : afterCsrc rd b ≤ l)
    (hx : extension (be16 rd b) = 1#1) :
    (Completion.ofHeader (headerDecode rd b l)).code =
      (Completion.ofExt (extDecode rd (b + afterCsrc rd b) (l - afterCsrc rd b))).code := by
  rw [headerDecode_of_extension hl hx]
  exact (ofHeader_map_headerFields rd b _).1

/-- The header parse's checks in their order, the lengths counted from the header's first byte. -/
theorem ofHeader_headerDecode_code (rd : Nat → Byte) (b l : Nat) :
    (Completion.ofHeader (headerDecode rd b l)).code =
      if l < 12 then .error .headerTooSmall
      else if l < afterCsrc rd b then .error .insufficientCsrcData
      else if extension (be16 rd b) = 1#1 ∧ l < afterCsrc rd b + 4 then .error .extensionHeaderMissing
      else if extension (be16 rd b) = 1#1 ∧ l < afterCsrc rd b + extSize rd (b + afterCsrc rd b) then
        .error .insufficientExtensionData
      else .ok := by
  have hafter : afterCsrc rd b = 12 + 4 * (csrcCount (be16 rd b)).toNat := rfl
  by_cases hfixed : l < 12
  · rw [headerDecode_of_lt_twelve hfixed, if_pos hfixed]
    rfl
  rw [if_neg hfixed]
  by_cases hcsrc : l < afterCsrc rd b
  · rw [headerDecode_eq_insufficientCsrcData_iff.2 (by omega), if_pos hcsrc]
    rfl
  rw [if_neg hcsrc]
  by_cases hx : extension (be16 rd b) = 1#1
  · have hrest (k : Nat) : l - afterCsrc rd b < k ↔ l < afterCsrc rd b + k ∧ 0 < k := by omega
    have hpos : 0 < extSize rd (b + afterCsrc rd b) := by unfold extSize; omega
    rw [ofHeader_headerDecode_code_of_extension (Nat.le_of_not_lt hcsrc) hx, ofExt_extDecode_code]
    simp only [hx, hrest, hpos, true_and, and_true, Nat.ofNat_pos]
  · have hok : headerDecode rd b l = .ok (headerAt rd b) :=
      headerDecode_eq_ok_iff.2 ⟨(headerSize_of_no_extension hx).trans_le (Nat.le_of_not_lt hcsrc), rfl⟩
    simp only [hok, hx, false_and, if_false]
    rfl

/-- The INFO_* commands have no check (60_exceptions R235). -/
theorem exec_info_code_ok {i : Instr} (h : 2 ≤ i.op.toNat) (s : State) : ∃ t, exec i s = .next t ∧ t.code = .ok := by
  cases i with
  | parseHeader base len | parseExtension base len => exact absurd h (by simp [Instr.op])
  | _ => exact ⟨_, exec_of_specifiedFor rfl, rfl⟩

/-! ### Parse commands whose results are not specified -/

/-- A hazard, or a buffer that runs past PBUF, leaves a parse command without a specified result. -/
theorem specifiedFor_parse_eq_false {base len : Half} {i : Instr} {s : State}
    (hi : i = .parseHeader base len ∨ i = .parseExtension base len)
    (h : s.hazard = true ∨ s.config.pbufBytes < base.toNat + len.toNat) : s.specifiedFor i = false := by
  have hs : s.specified base len = false := by
    rw [← Bool.not_eq_true, specified_iff]
    rintro ⟨hz, hr⟩
    rcases h with h | h
    · simp [hz] at h
    · omega
  rcases hi with rfl | rfl <;> exact hs

/-! ### Accepts and idle steps -/

/-- An accept overwrites STATUS, the result words, the latch and the hazard flag, whatever they were. -/
theorem accept_forgets (s : State) (c : CommandWord) (code : Code) (op : BitVec 3) (xp : Bool) (results : Results)
    (cmd : Latch) (hazard : Bool) :
    State.accept c { s with code := code, op := op, xp := xp, results := results, cmd := cmd, hazard := hazard } =
      s.accept c := rfl

theorem step_no_turns_idle {s : State} (hb : s.busy = false) (h : s.turns = []) : step s = .next s := by
  simp [step, nextMove, h, hb]

end Sys2Proof.Machine

namespace Sys2Proof
open Sys2Proof.Machine

/-- Settles O16: on specified operands a parse command's code is that of its decoder, whose checks fail in the source's
order; an INFO_* command has none. -/
theorem firstFailingCheckIsReported : Obligations.FirstFailingCheckIsReported := by
  intro b l s hz hr
  refine ⟨⟨_, exec_parseHeader hz hr, ?_⟩, ⟨_, exec_parseExtension hz hr, ofExt_extDecode_code ..⟩,
    fun i hi => exec_info_code_ok hi s⟩
  rw [complete_code, ofHeader_headerDecode_code]
  simp only [afterCsrc, extSize, Nat.add_assoc]

/-- Settles O38, by the cases of a step: completion and RESET leave FAULT as it is, and every other step only adds. -/
theorem faultsAreSticky : Obligations.FaultsAreSticky := fun _ _ => step_faults_subset

/-- Settles O24: the command completes with the free outcome, whose XDATA is cut to its depth. -/
theorem unspecifiedParseStillCompletes : Obligations.UnspecifiedParseStillCompletes := fun _ _ _ s hi h =>
  ⟨_, exec_of_not_specifiedFor (specifiedFor_parse_eq_false hi h), complete_frame .., rfl,
    free_xdata_length s.freeCount⟩

/-- Settles O46: both states step by the same accept, which overwrites every field in which they differ. -/
theorem acceptForgetsTheLastOutcome : Obligations.AcceptForgetsTheLastOutcome := by
  intro s u c rest hb h hu
  have hub : u.busy = false := by rw [hu]; exact hb
  have hut : u.turns = .issue c :: rest := by rw [hu]; exact h
  rw [step_issue hb h, step_issue hub hut, hu]
  exact congrArg Host.Outcome.next (accept_forgets (s.afterTurn rest) c ..)

/-- Settles O50. -/
theorem endedRunStays : Obligations.EndedRunStays := fun _ => step_no_turns_idle

end Sys2Proof
end

section
/-! Which words hold a value (10_state R46, R47), and what is left of them while BUSY = 1 and after an INFO_* command
(70 R273, R274). -/

namespace Sys2Proof.Machine

/-! ### The words R46 names, by index -/

section
variable (s : State)

theorem namesExt_iff :
    s.namesExt = true ↔ s.code = .ok ∧ (s.op = 0b001#3 ∨ s.op = 0b000#3 ∧ extension s.heldInfo = 1#1) := by
  simp [State.namesExt]

/-- The named registers by index: the header words, the extension words and RES_FIELD, each with its outcome. -/
theorem mem_namedRegs (n : BitVec 8) :
    n ∈ s.namedRegs ↔
      (s.code = .ok ∧ s.op = 0b000#3 ∧ ((1 ≤ n.toNat ∧ n.toNat ≤ 4) ∨
        (0x10 ≤ n.toNat ∧ n.toNat < 0x10 + (csrcCount s.heldInfo).toNat))) ∨
      (s.namesExt = true ∧ 5 ≤ n.toNat ∧ n.toNat ≤ 6) ∨
      (s.code = .ok ∧ s.op ≠ 0b000#3 ∧ s.op ≠ 0b001#3 ∧ n = 0x07#8) := by
  have hcc : (csrcCount s.heldInfo).toNat ≤ csrcMax := Nat.le_of_lt_succ (csrcCount s.heldInfo).isLt
  have mem_if (p : Prop) [Decidable p] (l : List (BitVec 8)) : (n ∈ if p then l else []) ↔ p ∧ n ∈ l := by
    split <;> simp [*]
  simp only [State.namedRegs, List.mem_append, mem_if, mem_headerIndices hcc, mem_extIndices, List.mem_singleton,
    and_assoc, or_assoc]

end

/-- The registers below the CSRC file that a command writes (R56). -/
theorem eq_of_named_index {n : BitVec 8} (h1 : 1 ≤ n.toNat) (h7 : n.toNat ≤ 7) :
    n = 0x01#8 ∨ n = 0x02#8 ∨ n = 0x03#8 ∨ n = 0x04#8 ∨ n = 0x05#8 ∨ n = 0x06#8 ∨ n = 0x07#8 := by
  simp only [← BitVec.toNat_inj, BitVec.toNat_ofNat]
  omega

/-- Every named register is one of those the HOST can read a result from. -/
theorem range_of_mem_namedRegs {s : State} {n : BitVec 8} (h : n ∈ s.namedRegs) :
    (1 ≤ n.toNat ∧ n.toNat ≤ 7) ∨ (0x10 ≤ n.toNat ∧ n.toNat ≤ 0x1E) := by
  have hcc := (csrcCount s.heldInfo).isLt
  rcases (mem_namedRegs s n).1 h with ⟨-, -, hn⟩ | ⟨-, hn⟩ | ⟨-, -, -, rfl⟩
  · omega
  · omega
  · exact .inl (by decide)

/-! ### The words that hold a value -/

/-- Each result word holds a value exactly when R46 names it. -/
structure State.HoldsNamedWords (s : State) : Prop where
  info : s.results.resInfo.isSome = true ↔ s.code = .ok ∧ s.op = 0b000#3
  seq : s.results.resSeq.isSome = true ↔ s.code = .ok ∧ s.op = 0b000#3
  ts : s.results.resTs.isSome = true ↔ s.code = .ok ∧ s.op = 0b000#3
  ssrc : s.results.resSsrc.isSome = true ↔ s.code = .ok ∧ s.op = 0b000#3
  csrc : ∀ i : Fin csrcMax, (s.results.csrc[i.val]).isSome = true ↔
    s.code = .ok ∧ s.op = 0b000#3 ∧ i.val < (csrcCount s.heldInfo).toNat
  extId : s.results.resExtId.isSome = true ↔ s.namesExt = true
  extLen : s.results.resExtLen.isSome = true ↔ s.namesExt = true
  xdata : s.results.xdata.length = s.namedXdata
  field : s.results.resField.isSome = true ↔ s.code = .ok ∧ s.op ≠ 0b000#3 ∧ s.op ≠ 0b001#3

section
variable {s : State}

theorem namesExt_of_info (h0 : s.op ≠ 0b000#3) (h1 : s.op ≠ 0b001#3) : s.namesExt = false := by
  simp [State.namesExt, h0, h1]

theorem namedXdata_of_not_namesExt (h : s.namesExt = false) : s.namedXdata = 0 := by simp [State.namedXdata, h]

theorem namedXdata_of_namesExt {ehl : Half} (h : s.namesExt = true) (he : s.results.resExtLen = some ehl) :
    s.namedXdata = ehl.toNat := by simp [State.namedXdata, h, he]

/-- The extension words, present or absent together, as R46 has it. -/
theorem extWords_of_shape (hext : s.namesExt = true → s.results.HasExt) (hno : s.namesExt = false → s.results.NoExt) :
    (s.results.resExtId.isSome = true ↔ s.namesExt = true) ∧
      (s.results.resExtLen.isSome = true ↔ s.namesExt = true) ∧ s.results.xdata.length = s.namedXdata := by
  cases hx : s.namesExt with
  | false =>
    obtain ⟨hid, hlen, hdata⟩ := hno hx
    simp [hid, hlen, hdata, namedXdata_of_not_namesExt hx]
  | true =>
    obtain ⟨hid, ehl, hlen, hdata⟩ := hext hx
    rw [Option.mem_def] at hlen
    simp [hid, hlen, hdata, namedXdata_of_namesExt hx hlen]

/-- After an error, and before a command has ended, R46 names no word (R47, R60). -/
theorem holdsNamedWords_of_not_ok (hc : s.code ≠ .ok) (hr : s.results = Results.noValue) : s.HoldsNamedWords := by
  have hx : s.namesExt = false := by simp [State.namesExt, hc]
  constructor <;> simp [hc, hr, hx, namedXdata_of_not_namesExt hx, Results.noValue]

theorem holdsNamedWords_of_headerShape (hc : s.code = .ok) (hop : s.op = 0b000#3)
    (h : s.results.HeaderShape s.xp) : s.HoldsNamedWords := by
  obtain ⟨⟨info, hinfo, hcsrc, hxp⟩, hseq, hts, hssrc, hfield, hext, hno⟩ := h
  rw [Option.mem_def] at hinfo
  have hheld : s.heldInfo = info := by simp [State.heldInfo, hinfo]
  have hnames : s.namesExt = s.xp := by
    rw [Bool.eq_iff_iff, namesExt_iff, hxp, hheld]
    simp [hc, hop]
  obtain ⟨hid, hlen, hdata⟩ := extWords_of_shape (hnames ▸ hext) (hnames ▸ hno)
  exact {
    info := by simp [hc, hop, hinfo]
    seq := by simp [hc, hop, hseq]
    ts := by simp [hc, hop, hts]
    ssrc := by simp [hc, hop, hssrc]
    csrc := fun i => by rw [hcsrc i, hheld]; simp [hc, hop]
    extId := hid
    extLen := hlen
    xdata := hdata
    field := by simp [hop, hfield] }

theorem holdsNamedWords_of_extShape (hc : s.code = .ok) (hop : s.op = 0b001#3) (h : s.results.ExtShape s.xp) :
    s.HoldsNamedWords := by
  obtain ⟨-, hext, hrest⟩ := h
  have hnames : s.namesExt = true := by simp [namesExt_iff, hc, hop]
  obtain ⟨hid, hlen, hdata⟩ := extWords_of_shape (fun _ => hext) (by simp [hnames])
  simp only [Results.noValue, Results.mk.injEq, true_and, and_true] at hrest
  obtain ⟨hinfo, hseq, hts, hssrc, hcsrc, hfield⟩ := hrest
  exact {
    info := by simp [hop, hinfo]
    seq := by simp [hop, hseq]
    ts := by simp [hop, hts]
    ssrc := by simp [hop, hssrc]
    csrc := fun i => by simp [hop, hcsrc]
    extId := hid
    extLen := hlen
    xdata := hdata
    field := by simp [hop, hfield] }

theorem holdsNamedWords_of_fieldShape (hc : s.code = .ok) (h0 : s.op ≠ 0b000#3) (h1 : s.op ≠ 0b001#3)
    (h : s.results.FieldShape s.xp) : s.HoldsNamedWords := by
  obtain ⟨-, hfield, hrest⟩ := h
  have hx := namesExt_of_info h0 h1
  simp only [Results.noValue, Results.mk.injEq, true_and] at hrest
  obtain ⟨hinfo, hseq, hts, hssrc, hcsrc, hid, hlen, hdata⟩ := hrest
  obtain ⟨hid, hlen, hdata⟩ := extWords_of_shape (by simp [hx]) fun _ => ⟨hid, hlen, hdata⟩
  exact {
    info := by simp [h0, hinfo]
    seq := by simp [h0, hseq]
    ts := by simp [h0, hts]
    ssrc := by simp [h0, hssrc]
    csrc := fun i => by simp [h0, hcsrc]
    extId := hid
    extLen := hlen
    xdata := hdata
    field := by simp [hc, h0, h1, hfield] }

/-- An outcome of the shape R46 and R47 give it holds the words R46 names and no other. -/
theorem State.OutcomeShape.holdsNamedWords (h : s.OutcomeShape) : s.HoldsNamedWords := by
  by_cases hc : s.code = .ok
  · by_cases h0 : s.op = 0b000#3
    · exact holdsNamedWords_of_headerShape hc h0 (h.header hc h0)
    · by_cases h1 : s.op = 0b001#3
      · exact holdsNamedWords_of_extShape hc h1 (h.ext hc h1)
      · exact holdsNamedWords_of_fieldShape hc h0 h1 (h.field hc h0 h1)
  · exact holdsNamedWords_of_not_ok hc (h.notOk hc).2

/-! ### Their reads -/

/-- A read of a result register finds a value exactly at the indices R46 names. -/
theorem State.HoldsNamedWords.regWord_isSome_iff (h : s.HoldsNamedWords) {n : BitVec 8}
    (hn : (1 ≤ n.toNat ∧ n.toNat ≤ 7) ∨ (0x10 ≤ n.toNat ∧ n.toNat ≤ 0x1E)) :
    (s.regWord n).isSome = true ↔ n ∈ s.namedRegs := by
  rw [mem_namedRegs]
  rcases hn with ⟨h1, h7⟩ | ⟨h10, h1E⟩
  · rcases eq_of_named_index h1 h7 with rfl | rfl | rfl | rfl | rfl | rfl | rfl
    · simpa [State.regWord] using h.info
    · simpa [State.regWord] using h.seq
    · simpa [State.regWord] using h.ts
    · simpa [State.regWord] using h.ssrc
    · simpa [State.regWord] using h.extId
    · simpa [State.regWord] using h.extLen
    · simpa [State.regWord] using h.field
  · have hi : n.toNat - 0x10 < csrcMax := by have : csrcMax = 15 := rfl; omega
    have hcsrc : ((1 ≤ n.toNat ∧ n.toNat ≤ 4) ∨ (0x10 ≤ n.toNat ∧ n.toNat < 0x10 + (csrcCount s.heldInfo).toNat)) ↔
        n.toNat - 0x10 < (csrcCount s.heldInfo).toNat := by omega
    have hext : ¬ n.toNat ≤ 6 := by omega
    have hfield : n ≠ 0x07#8 := by rintro rfl; simp at h10
    rw [regWord_csrc s n ⟨n.toNat - 0x10, hi⟩ (by simp; omega), h.csrc, hcsrc]
    simp [hext, hfield]

/-- A read of XDATA finds a value exactly below the count R46 gives. -/
theorem State.HoldsNamedWords.xdataWord_isSome_iff (h : s.HoldsNamedWords) {j : BitVec 14} (hj : j.toNat < xdataWords) :
    (s.xdataWord j).isSome = true ↔ j.toNat < s.namedXdata := by
  rw [xdataWord_of_lt s hj, ← h.xdata]
  simp

end

/-! ### INFO_* commands -/

theorem op_decode (c : CommandWord) : (decode c).op = opField c := op_decodeFields ..

/-- An INFO_* command, by its OP. -/
theorem not_parse_of_two_le {op : BitVec 3} (h : 2 ≤ op.toNat) : op ≠ 0b000#3 ∧ op ≠ 0b001#3 := by
  constructor <;> rintro rfl <;> simp at h

/-- An INFO_* command completes with a field and nothing else. -/
theorem exec_info {i : Instr} (h : 2 ≤ i.op.toNat) (s : State) :
    ∃ f, exec i s = .next (s.complete (Completion.field f)) := by
  cases i with
  | parseHeader base len | parseExtension base len => exact absurd h (by simp [Instr.op])
  | _ => exact ⟨_, exec_of_specifiedFor rfl⟩

/-- After an INFO_* command RES_FIELD is the only word R46 names. -/
theorem mem_namedRegs_of_info {s : State} (hc : s.code = .ok) (h0 : s.op ≠ 0b000#3) (h1 : s.op ≠ 0b001#3)
    (n : BitVec 8) : n ∈ s.namedRegs ↔ n = 0x07#8 := by
  simp [mem_namedRegs, namesExt_iff, hc, h0, h1]

theorem namedXdata_of_info {s : State} (h0 : s.op ≠ 0b000#3) (h1 : s.op ≠ 0b001#3) : s.namedXdata = 0 :=
  namedXdata_of_not_namesExt (namesExt_of_info h0 h1)

/-- An INFO_* command issued to an idle block completes on the PARSER's turn (10_state R50, R52). -/
theorem run_issue_info {s : State} {c : CommandWord} {rest : List Turn} (hb : s.busy = false)
    (hop : 2 ≤ (opField c).toNat) (h : s.turns = .issue c :: .parser :: rest) :
    ∃ f, Sys2Proof.core.run 2 s =
      .next ((((s.afterTurn (.parser :: rest)).accept c).afterTurn rest).complete (Completion.field f)) := by
  let u := (s.afterTurn (.parser :: rest)).accept c
  obtain ⟨f, hexec⟩ := exec_info (op_decode c ▸ hop) (u.afterTurn rest)
  have hparser : step u = exec (decode c) (u.afterTurn rest) := step_parser rfl rfl
  exact ⟨f, (run_next (step_issue hb h) 1).trans ((run_next (hparser.trans hexec) 0).trans (run_zero _))⟩

end Sys2Proof.Machine

namespace Sys2Proof
open Sys2Proof.Machine

/-- Settles O43: the invariant says that no result word holds a value while the block is busy. -/
theorem resultsHoldNoValueWhileBusy : Obligations.ResultsHoldNoValueWhileBusy := by
  intro s h hb
  obtain ⟨-, -, hr⟩ := h.running hb
  exact ⟨rfl, fun _ => regWord_named_noValue hr, fun _ => regWord_csrc_noValue hr, fun _ => xdataWord_noValue hr⟩

/-- Settles O44: the outcome has the shape of an INFO_* command's, so the words that hold a value are those R46 names:
RES_FIELD alone. -/
theorem infoCommandLosesEarlierResults : Obligations.InfoCommandLosesEarlierResults := by
  intro s c rest hb hinfo h
  have hop : 2 ≤ (opField c).toNat := by rwa [opField_toNat]
  obtain ⟨h0, h1⟩ := not_parse_of_two_le hop
  obtain ⟨f, hrun⟩ := run_issue_info hb hop h
  refine ⟨_, hrun, rfl, rfl, rfl, ?_⟩
  set t := (((s.afterTurn (.parser :: rest)).accept c).afterTurn rest).complete (Completion.field f)
  have hold : t.HoldsNamedWords := (outcomeShape_field h0 h1 f).holdsNamedWords
  have hnone {n : BitVec 8} (hn : (1 ≤ n.toNat ∧ n.toNat ≤ 7) ∨ (0x10 ≤ n.toNat ∧ n.toNat ≤ 0x1E))
      (h7 : n.toNat ≠ 7) : t.regWord n = none := by
    rw [← Option.not_isSome_iff_eq_none, hold.regWord_isSome_iff hn, mem_namedRegs_of_info rfl h0 h1]
    rintro rfl
    exact h7 rfl
  refine ⟨fun n h1 h6 => hnone (by omega) (by omega), fun n h10 h1E => hnone (by omega) (by omega), fun j hj => ?_⟩
  rw [← Option.not_isSome_iff_eq_none, hold.xdataWord_isSome_iff hj, namedXdata_of_info h0 h1]
  omega

/-- Settles O53: with FAULT empty the outcome has the shape of R46 and R47. -/
theorem endedRunHoldsTheNamedWords : Obligations.EndedRunHoldsTheNamedWords := by
  rintro s h ⟨-, hf⟩
  have hold := (h.shape hf).holdsNamedWords
  exact ⟨rfl, fun _ hn => hold.regWord_isSome_iff hn, fun _ hj => hold.xdataWord_isSome_iff hj⟩

end Sys2Proof
end

section
/-! Completions come to an end: every command has one, an offer waits for it, and a busy block reaches it
(70 R271, R272, R276, R277). -/

namespace Sys2Proof.Machine
variable {s t : State}

/-- Reads of the HOST return what STATUS and the result words hold. -/
theorem KeepsOutcome.regWord_eq (h : KeepsOutcome s t) (n : BitVec 8) : t.regWord n = s.regWord n :=
  regWord_congr h.busy h.code h.op h.xp h.results n

theorem KeepsOutcome.xdataWord_eq (h : KeepsOutcome s t) (j : BitVec 14) : t.xdataWord j = s.xdataWord j :=
  xdataWord_congr h.results j

theorem KeepsOutcome.observation_eq (h : KeepsOutcome s t) : t.observation = s.observation :=
  observation_congr h.busy h.code h.op h.xp h.results

/-- An idle block has no buffer that a write could spoil (70 R271). -/
theorem hazardAt_of_idle (hb : s.busy = false) (a : Nat) : s.hazardAt a = false := by simp [State.hazardAt, hb]

/-- A step of a busy block makes it idle, or uses up a turn: it completes, is reset, or serves an access of the
HOST's. -/
theorem step_busy (hb : s.busy = true) (hw : ∀ a v, .writePbuf a v ∈ s.turns → a.toNat < s.config.pbufBytes) :
    ∃ t, step s = .next t ∧
      (t.busy = false ∨ t.busy = true ∧ t.config = s.config ∧ ∃ x, s.turns = x :: t.turns) := by
  have completes (u : State) (h : step s = exec s.cmd.instr u) : ∃ t, step s = .next t ∧ t.busy = false := by
    obtain ⟨d, k, e⟩ := exec_next s.cmd.instr u
    exact ⟨_, h.trans e, rfl⟩
  cases ht : s.turns with
  | nil =>
    obtain ⟨t, h, hidle⟩ := completes _ (step_no_turns hb ht)
    exact ⟨t, h, .inl hidle⟩
  | cons x rest =>
    cases x with
    | issue c =>
      obtain ⟨t, h, hidle⟩ := completes _ (step_issue_busy hb ht)
      exact ⟨t, h, .inl hidle⟩
    | parser =>
      obtain ⟨t, h, hidle⟩ := completes _ (step_parser hb ht)
      exact ⟨t, h, .inl hidle⟩
    | reset => exact ⟨_, step_reset ht, .inl rfl⟩
    | writePbuf a v =>
      exact ⟨_, step_writePbuf_next ht (hw a v (by simp [ht])), .inr ⟨hb, rfl, _, rfl⟩⟩
    | readReg n => exact ⟨_, step_readReg ht, .inr ⟨hb, rfl, _, rfl⟩⟩
    | readXdata j => exact ⟨_, step_readXdata ht, .inr ⟨hb, rfl, _, rfl⟩⟩

/-- A busy block is idle after at most one step more than the turns in its list (70 R276). -/
theorem run_busy_becomes_idle {turns : List Turn} (ht : s.turns = turns) (hb : s.busy = true)
    (hw : ∀ a v, .writePbuf a v ∈ turns → a.toNat < s.config.pbufBytes) :
    ∃ k t, k ≤ turns.length + 1 ∧ Sys2Proof.core.run k s = .next t ∧ t.busy = false := by
  induction turns generalizing s with
  | nil =>
    obtain ⟨t, hstep, hidle | ⟨-, -, x, hx⟩⟩ := step_busy hb (ht ▸ hw)
    · exact ⟨1, t, le_rfl, (run_next hstep 0).trans (run_zero t), hidle⟩
    · rw [ht] at hx; cases hx
  | cons y rest ih =>
    obtain ⟨t, hstep, hidle | ⟨htb, hcfg, x, hx⟩⟩ := step_busy hb (ht ▸ hw)
    · exact ⟨1, t, by omega, (run_next hstep 0).trans (run_zero t), hidle⟩
    · rw [ht] at hx
      cases hx
      obtain ⟨k, u, hk, hrun, hu⟩ := ih rfl htb fun a v hm => hcfg ▸ hw a v (List.mem_cons_of_mem _ hm)
      exact ⟨k + 1, u, by simpa using hk, (run_next hstep k).trans hrun, hu⟩

end Sys2Proof.Machine

namespace Sys2Proof
open Sys2Proof.Machine

/-- Settles O25: every command's meaning is a completion, with its rule's outcome or a free one. -/
theorem everyCommandCompletesWithItsFrame : Obligations.EveryCommandCompletesWithItsFrame := by
  intro i s
  obtain ⟨d, k, h⟩ := exec_next i s
  exact ⟨_, h, complete_frame s d k⟩

/-- Settles O27: the completion keeps the turns, so the offer is first again, to an idle block. -/
theorem issueWhileBusyIsHeld : Obligations.IssueWhileBusyIsHeld := by
  intro s c rest hb h
  obtain ⟨d, k, e⟩ := exec_next s.cmd.instr s
  exact ⟨_, _, (step_issue_busy hb h).trans e, e, rfl, rfl, rfl, rfl, step_issue rfl h, rfl, rfl, rfl⟩

/-- Settles O47, by induction on the turns: each step ends the command or uses up a turn. -/
theorem busyBlockBecomesIdle : Obligations.BusyBlockBecomesIdle := fun _ hb hw => run_busy_becomes_idle rfl hb hw

/-- Settles O49: an idle block has no running buffer, and a write keeps STATUS and the result words. -/
theorem bufferIsFreeAtCompletion : Obligations.BufferIsFreeAtCompletion := by
  intro s a v rest hb h ha
  have hk := keepsOutcome_write s rest a.toNat v
  refine ⟨_, step_writePbuf_next h ha, ?_, ?_, hk.regWord_eq, hk.xdataWord_eq⟩
  · rw [byteAt_setByte, if_pos rfl]
  · simp [hazardAt_of_idle hb]

end Sys2Proof
end

section
/-! The end of a run and its observation (70 R278). -/

namespace Sys2Proof.Machine
variable {s t : State}

/-- A step adds no turn. -/
theorem step_turns_subset (h : step s = .next t) : t.turns ⊆ s.turns := by
  cases step_cases h with
  | complete r _ turn e =>
    obtain ⟨d, k, rfl⟩ := exec_cases e
    rcases turn with ⟨-, rfl⟩ | turn | ⟨c, q, -, rfl⟩
    · exact List.nil_subset _
    · rw [turn]; exact List.subset_cons_self ..
    · exact List.Subset.refl _
  | idle _ _ e => subst e; exact List.Subset.refl _
  | parserIdle r _ turn e | issue c r _ turn e | write a v r turn _ e | readReg n r turn e | readXdata j r turn e
  | reset r turn e =>
    subst e; rw [turn]; exact List.subset_cons_self ..

/-- A run that has ended is over: no step but a RESET changes STATUS or a result word. -/
theorem State.RunEnded.step_keepsOutcome_or (hs : s.RunEnded) (h : step s = .next t) :
    KeepsOutcome s t ∨ ∃ rest, s.turns = .reset :: rest := by
  obtain ⟨hb, hno⟩ := hs
  rcases Machine.step_keepsOutcome_or h with hk | ⟨hbusy, -⟩ | ⟨-, c, rest, ht⟩ | hreset
  · exact .inl hk
  · rw [hb] at hbusy; cases hbusy
  · exact absurd (by simp [ht]) (hno c)
  · exact .inr hreset

theorem State.RunEnded.step (hs : s.RunEnded) (h : Machine.step s = .next t) : t.RunEnded := by
  refine ⟨?_, fun c hc => hs.2 c (step_turns_subset h hc)⟩
  rcases hs.step_keepsOutcome_or h with hk | ⟨rest, ht⟩
  · exact hk.busy.trans hs.1
  · rw [step_reset ht] at h
    cases h
    rfl

/-- A read of a word that holds a value adds nothing to FAULT (60_exceptions R240). -/
theorem afterRead_of_isSome (f : FaultSet) {w : Option Word} (h : w.isSome = true) : f.afterRead w = f := by
  obtain ⟨v, rfl⟩ := Option.isSome_iff_exists.1 h
  simp [FaultSet.afterRead]

/-- A good end stays one, with its observation, through a step that keeps the outcome and FAULT. -/
theorem State.GoodEnd.step (hs : s.GoodEnd) (h : Machine.step s = .next t) (hk : KeepsOutcome s t)
    (hf : t.faults = s.faults) : t.GoodEnd ∧ t.observation = s.observation :=
  ⟨⟨hs.1.step h, hf.trans hs.2⟩, hk.observation_eq⟩

end Sys2Proof.Machine

namespace Sys2Proof
open Sys2Proof.Machine

/-- Settles O52: no ISSUE is added and none is left, so no step but a RESET touches STATUS or a result word. -/
theorem endedRunStaysEnded : Obligations.EndedRunStaysEnded := by
  intro s t hs h
  refine ⟨hs.step h, fun hreset => ?_⟩
  rcases hs.step_keepsOutcome_or h with hk | ⟨rest, ht⟩
  · exact hk.observation_eq
  · exact absurd ht (hreset rest)

/-- Settles O54: the words R46 names hold a value, so a read of one returns it and adds nothing to FAULT. -/
theorem endedRunCanBeObserved : Obligations.EndedRunCanBeObserved := by
  intro s rest h hs
  have hold := (h.shape hs.2).holdsNamedWords
  constructor
  · intro n ht hn
    have hsome : (s.regWord n).isSome = true := by
      rcases hn with rfl | hn
      · rfl
      · exact (hold.regWord_isSome_iff (range_of_mem_namedRegs hn)).2 hn
    obtain ⟨v, hv⟩ := Option.isSome_iff_exists.1 hsome
    exact ⟨_, v, step_readReg ht, hv, hv,
      hs.step (step_readReg ht) (keepsOutcome_readReg s rest n) (afterRead_of_isSome s.faults hsome)⟩
  · intro j ht hj
    have hdepth : j.toNat < xdataWords := lt_of_lt_of_le hj (hold.xdata ▸ h.xdata)
    have hsome : (s.xdataWord j).isSome = true := (hold.xdataWord_isSome_iff hdepth).2 hj
    obtain ⟨v, hv⟩ := Option.isSome_iff_exists.1 hsome
    exact ⟨_, v, step_readXdata ht, hv, hv,
      hs.step (step_readXdata ht) (keepsOutcome_readXdata s rest j) (afterRead_of_isSome s.faults hsome)⟩

end Sys2Proof
end
